-- ==== Sys2Proof/Word.lean ====
section
/-! DEFINITION. The word types: a 32-bit register or command word, a byte of packet memory or of the HDR
window, a 16-bit wire field (00_scope.md R6, R8, 10_state.md R21). -/

namespace Sys2Proof

/-- A register value or a command word (10_state.md R21, 30_encoding.md R70). -/
abbrev Word := BitVec 32

/-- A byte of packet memory or of the HDR window (10_state.md R31, R34). -/
abbrev Byte := BitVec 8

/-- A 16-bit wire field such as an ethertype (20_memory.md R51). -/
abbrev Half := BitVec 16

end Sys2Proof
end

