-- ==== Sys2Proof/Config.lean ====
section
/-! DEFINITION. What one implementation fixes (00_scope.md R5, 10_state.md R37, "Parameters left OPEN" of
92_eei_decisions.md), with the spec's defaults, and the two free values. -/

namespace Sys2Proof

/-- The wire-format constants, a configuration record whose defaults are the standard values
(30_encoding.md R78, R79, R80, 92_eei_decisions.md D4; log entry 3). -/
structure Wire where
  /-- ETYPE_IPV4 (R78). -/
  etypeIpv4 : Half := 0x0800
  /-- ETYPE_VLAN, the 802.1Q tag protocol identifier (R78). -/
  etypeVlan : Half := 0x8100
  /-- ETYPE_IPV6 (R78). -/
  etypeIpv6 : Half := 0x86DD
  /-- IPPROTO_TCP (R79). -/
  protoTcp : Byte := 6
  /-- IPPROTO_UDP (R79). -/
  protoUdp : Byte := 17
  /-- NH_HBH, hop-by-hop options (R80). -/
  nhHbh : Byte := 0
  /-- NH_TCP (R80). -/
  nhTcp : Byte := 6
  /-- NH_UDP (R80). -/
  nhUdp : Byte := 17
  /-- NH_ROUTING (R80). -/
  nhRouting : Byte := 43
  /-- NH_FRAG, fragment (R80). -/
  nhFrag : Byte := 44
  /-- NH_NONE, no next header (R80). -/
  nhNone : Byte := 59
  /-- NH_DSTOPT, destination options (R80). -/
  nhDstopt : Byte := 60
  deriving DecidableEq, Repr

/-- The IEEE and IANA values of 30_encoding.md R78 to R80. -/
def Wire.standard : Wire := {}

/-- The implementation parameters of 00_scope.md R5 and 10_state.md R37. A machine keeps the ones it has: no step changes
them (10_state.md R37). They stand in State as data, so that a statement about every state is a statement about
every parameter (log entry 2). -/
structure Config where
  /-- OFFSET_BITS, W: width of OFFSET and BUF_LEN. -/
  offsetBits : Nat := 16
  /-- PKT_ADDR_BITS, A: width of BUF_BASE. -/
  pktAddrBits : Nat := 32
  /-- PKT_MEM_BYTES: the readable bytes of packet memory, addresses 0 to PKT_MEM_BYTES - 1. -/
  pktMemBytes : Nat := 2 ^ pktAddrBits
  /-- WIRE: the wire-format constants. -/
  wire : Wire := Wire.standard
  /-- REG_BASE: the platform address of the block's register at offset 0 (10_state.md R21, R37). The spec gives it no
  default: 0 is a DESIGN CHOICE (log entry 4). -/
  regBase : Nat := 0
  deriving DecidableEq, Repr

/-- Every parameter at its default of 00_scope.md R5, REG_BASE at the model's (log entry 4). -/
def Config.standard : Config := {}

/-- The byte at an address of packet memory that nothing has written: "whatever the platform wrote"
(10_state.md R34). DESIGN CHOICE: a free value, so nothing can be proved of it (log entry 5). -/
opaque Config.unwrittenByte : Nat → Byte

/-- The free choice of a raced read (20_memory.md R58): the number of the draw and the address give a number,
of which the model takes the remainder by the count of admitted values (log entry 6). -/
opaque Config.raceChoice : Nat → Nat → Nat

end Sys2Proof
end

