-- ==== Sys2Proof/Syntax.lean ====
section
/-! DEFINITION. Syntax: the seven protocols, the fourteen commands (one constructor per row of
spec/opcode_table.json), the registers, and the actions of the agents around the block (30_encoding.md R71, R74,
R85, 10_state.md R21, R36). -/

namespace Sys2Proof

/-- The protocol selector PROTO, in the source's order (30_encoding.md R71). -/
inductive Proto where
  | eth | vlan | ip4 | ip6 | ip6ext | tcp | udp
  deriving DecidableEq, Repr

/-- The fourteen commands (30_encoding.md R74). No command has an operand in its word (R85, R86). -/
inductive Instr where
  /-- FIT.ETH (40_fit.md R91). -/
  | fitEth
  /-- FIT.VLAN (R92). -/
  | fitVlan
  /-- FIT.IP4 (R93). -/
  | fitIp4
  /-- FIT.IP6 (R94). -/
  | fitIp6
  /-- FIT.IP6EXT (R95). -/
  | fitIp6ext
  /-- FIT.TCP (R96). -/
  | fitTcp
  /-- FIT.UDP (R97). -/
  | fitUdp
  /-- EXT.ETH (41_link_layer.md R100). -/
  | extEth
  /-- EXT.VLAN (41_link_layer.md R102). -/
  | extVlan
  /-- EXT.IP4 (42_ip.md R121). -/
  | extIp4
  /-- EXT.IP6 (42_ip.md R125). -/
  | extIp6
  /-- EXT.IP6EXT (42_ip.md R126). -/
  | extIp6ext
  /-- EXT.TCP (43_transport.md R150). -/
  | extTcp
  /-- EXT.UDP (43_transport.md R151). -/
  | extUdp
  deriving DecidableEq, Repr

/-- The registers of the map (10_state.md R21). -/
inductive Register where
  | cmd | status | ctrl | bufBase | bufLen | offset | result | fit | faultCmd
  /-- HDR0 to HDR9 (R31). -/
  | hdr (k : Fin 10)
  deriving DecidableEq, Repr

/-- What the agents around the block can do to it (10_state.md R36, 70_reset_and_hazards.md R230). An access carries
its width in bits and its byte offset, so that the accesses R33 puts outside the interface can be named. A
packet memory write is two events, so that a command can run while one is in progress (20_memory.md R58). -/
inductive HostAction where
  /-- A register write of `bits` bits at byte offset `offset`. -/
  | write (bits offset : Nat) (v : Word)
  /-- A register read of `bits` bits at byte offset `offset`. -/
  | read (bits offset : Nat)
  /-- A platform agent starts to write one byte of packet memory. -/
  | packetWriteStart (addr : Nat) (b : Byte)
  /-- The packet memory write at place `k` (from 0, oldest first) among those in progress completes. -/
  | packetWriteDone (k : Nat)
  /-- The hardware reset input is asserted. -/
  | resetAssert
  /-- The hardware reset input is released. -/
  | resetRelease
  deriving DecidableEq, Repr

end Sys2Proof
end

