-- ==== Sys2Proof/WellFormed.lean ====
section
/-! DEFINITION. Well-formedness: which host actions lie inside the register interface (10_state.md R33) and which
parameters are legal (00_scope.md R5). A command has no operand (30_encoding.md R85), so every `Instr` is
well formed and there is nothing to check of one. -/

namespace Sys2Proof

/-- A register access is 32 bits wide and its offset a multiple of 4 (10_state.md R33). The other actions are not
register accesses. -/
def HostAction.wf : HostAction → Bool
  | .write bits offset _ => bits == 32 && offset % 4 == 0
  | .read bits offset => bits == 32 && offset % 4 == 0
  | .packetWriteStart _ _ => true
  | .packetWriteDone _ => true
  | .resetAssert => true
  | .resetRelease => true

/-- The constants of one dispatch table are pairwise distinct, as the standard ones are: then the order of the table's
rows never matters. The spec does not ask it of WIRE ("any values"), so `Config.wf` does not (log entry 3). -/
def Wire.wf (w : Wire) : Bool :=
  decide ([w.etypeIpv4, w.etypeVlan, w.etypeIpv6].Nodup) && decide ([w.protoTcp, w.protoUdp].Nodup) &&
    decide ([w.nhHbh, w.nhTcp, w.nhUdp, w.nhRouting, w.nhFrag, w.nhNone, w.nhDstopt].Nodup)

/-- The constraints of 00_scope.md R5 on W, A and PKT_MEM_BYTES; WIRE and REG_BASE have none. -/
def Config.wf (c : Config) : Bool :=
  decide (8 ≤ c.offsetBits) && decide (c.offsetBits ≤ 32) && decide (1 ≤ c.pktAddrBits) &&
    decide (c.pktAddrBits ≤ 32) && decide (1 ≤ c.pktMemBytes) && decide (c.pktMemBytes ≤ 2 ^ c.pktAddrBits)

end Sys2Proof
end

