-- ==== Sys2Proof/Decode.lean ====
section
/-! DEFINITION. The decoder of a command word, total on every word and rejecting by name, and the encoder
(30_encoding.md R70 to R74). -/

namespace Sys2Proof

/-- Why a word is no command: both raise ILLEGAL_CMD (30_encoding.md R73). -/
inductive DecodeReject where
  /-- A bit of RSVD, [31:5], is set. -/
  | reservedBits
  /-- PROTO is 7 to 15. -/
  | reservedProto
  deriving DecidableEq, Repr

/-- RSVD, bits [31:5] (R70). -/
def rsvdField (w : Word) : BitVec 27 := w.extractLsb' 5 27

/-- OP, bit [4]: set for an extractor (R70, R72). -/
def opField (w : Word) : Bool := w.getLsbD 4

/-- PROTO, bits [3:0] (R70). -/
def protoField (w : Word) : BitVec 4 := w.extractLsb' 0 4

/-- The protocol a PROTO code selects; 7 to 15 are reserved (R71). -/
def protoOfCode (c : BitVec 4) : Option Proto :=
  match c.toNat with
  | 0 => some .eth
  | 1 => some .vlan
  | 2 => some .ip4
  | 3 => some .ip6
  | 4 => some .ip6ext
  | 5 => some .tcp
  | 6 => some .udp
  | _ => none

/-- The PROTO code of a protocol (R71). -/
def protoCode : Proto → BitVec 4
  | .eth => 0
  | .vlan => 1
  | .ip4 => 2
  | .ip6 => 3
  | .ip6ext => 4
  | .tcp => 5
  | .udp => 6

/-- The fit check of a protocol (R72, R74). -/
def fitCheckOf : Proto → Instr
  | .eth => .fitEth
  | .vlan => .fitVlan
  | .ip4 => .fitIp4
  | .ip6 => .fitIp6
  | .ip6ext => .fitIp6ext
  | .tcp => .fitTcp
  | .udp => .fitUdp

/-- The extractor of a protocol (R72, R74). -/
def extractorOf : Proto → Instr
  | .eth => .extEth
  | .vlan => .extVlan
  | .ip4 => .extIp4
  | .ip6 => .extIp6
  | .ip6ext => .extIp6ext
  | .tcp => .extTcp
  | .udp => .extUdp

/-- The protocol of a command (R74). -/
def protoOf : Instr → Proto
  | .fitEth => .eth
  | .fitVlan => .vlan
  | .fitIp4 => .ip4
  | .fitIp6 => .ip6
  | .fitIp6ext => .ip6ext
  | .fitTcp => .tcp
  | .fitUdp => .udp
  | .extEth => .eth
  | .extVlan => .vlan
  | .extIp4 => .ip4
  | .extIp6 => .ip6
  | .extIp6ext => .ip6ext
  | .extTcp => .tcp
  | .extUdp => .udp

/-- Is the command an extractor, OP = 1 (R72)? -/
def isExtractor : Instr → Bool
  | .fitEth => false
  | .fitVlan => false
  | .fitIp4 => false
  | .fitIp6 => false
  | .fitIp6ext => false
  | .fitTcp => false
  | .fitUdp => false
  | .extEth => true
  | .extVlan => true
  | .extIp4 => true
  | .extIp6 => true
  | .extIp6ext => true
  | .extTcp => true
  | .extUdp => true

/-- `Decode(c)` of R73: every word is one of the fourteen commands or rejected by name. -/
def decode (w : Word) : Except DecodeReject Instr :=
  if rsvdField w = 0 then
    match protoOfCode (protoField w) with
    | some p => .ok (if opField w then extractorOf p else fitCheckOf p)
    | none => .error .reservedProto
  else .error .reservedBits

/-- The word of a command: 27 zeros, OP, PROTO (R70, R74). -/
def encode (i : Instr) : Word := 0#27 ++ BitVec.ofBool (isExtractor i) ++ protoCode (protoOf i)

/-- What the decoder reads from the low `nbits` bits of `w`, every other bit zero. A command is one 32-bit word
(R70): bits above bit 31 belong to no command. -/
def decodeTableWord (nbits w : Nat) : Option Instr :=
  let v := w % 2 ^ nbits
  if v < 2 ^ 32 then
    match decode (BitVec.ofNat 32 v) with
    | .ok i => some i
    | .error _ => none
  else none

end Sys2Proof
end

