-- ==== Sys2Proof/Machine/State.lean ====
section
/-! DEFINITION. State as plain data: the registers, the HDR window, packet memory, the reset input, the parameters,
and the actions of the agents around the block that are still to come (10_state.md R20 to R37); the reasons a step
can stop; the machine right after reset (70_reset_and_hazards.md R231). -/

namespace Sys2Proof.Machine

/-- The causes of the BLOCK's own fault state (60_exceptions.md R200). Entering it is a next state, not a stop. -/
inductive Cause where
  /-- A CMD write of a word that is no command (R201). -/
  | illegalCmd
  /-- An extractor's header does not fit in the buffer (R202). -/
  | oob
  /-- An extractor's header lies partly outside packet memory (R203). -/
  | addrRange
  deriving DecidableEq, Repr

/-- The model's faults. -/
inductive Fault where
  /-- Raised by `packetWriteStart` when a platform agent writes an address that packet memory does not have
  (10_state.md R34, 20_memory.md R50). SAFE: the model stops where the platform's own bus decides (log entry 7). -/
  | packetAddressAbsent (addr : Nat)
  deriving DecidableEq, Repr

/-- The model's refusals. -/
inductive Refusal where
  /-- Raised by an arm of exec for an instruction without a meaning: no arm is one. SAFE. -/
  | notModelled (mnemonic : String)
  /-- Raised by a register access that is not 32 bits wide: "a model refuses it (no meaning is given)"
  (10_state.md R33). SAFE. -/
  | accessNotWordWide (bits : Nat)
  /-- Raised by a 32-bit register access at an offset that is not a multiple of 4 (10_state.md R33). SAFE. -/
  | accessNotAligned (offset : Nat)
  deriving DecidableEq, Repr

/-- Packet memory: the bytes written so far, by strictly rising address. An unlisted address has no value in the
list (10_state.md R34; log entry 5). -/
abbrev Memory := List Host.Cell

/-- The machine's state. `inbox`, `readData` and `draws` are the model's own fields. -/
structure State where
  /-- The implementation parameters (00_scope.md R5, 10_state.md R37); no step changes them (log entry 2). -/
  cfg : Config
  /-- CMD (R22). -/
  cmd : Word
  /-- STATUS: [0] FAULT, [7:4] CAUSE (R23). -/
  status : Word
  /-- BUF_BASE (R25). -/
  bufBase : Word
  /-- BUF_LEN (R26). -/
  bufLen : Word
  /-- OFFSET (R27). -/
  offset : Word
  /-- RESULT: [15:0] LEN, [23:16] TAG (R28). -/
  result : Word
  /-- FIT: [0] FITS (R29). -/
  fit : Word
  /-- FAULT_CMD (R30). -/
  faultCmd : Word
  /-- The HDR window, HDR[0..39] (R31). -/
  hdr : Vector Byte 40
  /-- Packet memory PM (R34): the platform's, the block only reads it. -/
  mem : Memory
  /-- Packet memory writes started and not complete, oldest first (20_memory.md R58, R60, R61; log entry 6). -/
  inFlight : List Host.Cell
  /-- The level of the hardware reset input (70_reset_and_hazards.md R230). -/
  resetLine : Bool
  /-- MODEL: the number of the next free choice of a raced read (log entry 6). -/
  draws : Nat
  /-- MODEL: the word the last register read returned, if it returned one (log entry 10). -/
  readData : Option Word
  /-- MODEL: what the agents around the block do next, in order (log entry 1). -/
  inbox : List HostAction
  deriving DecidableEq, Repr

/-- Right after reset (70_reset_and_hazards.md R231), with the default parameters of 00_scope.md R5, nothing written to
packet memory and nothing yet to come from outside (log entries 1, 2, 4, 5, 6, 9, 10). -/
def State.reset : State where
  cfg := Config.standard
  cmd := 0
  status := 0
  bufBase := 0
  bufLen := 0
  offset := 0
  result := 0
  fit := 0
  faultCmd := 0
  hdr := Vector.replicate 40 0
  mem := []
  inFlight := []
  resetLine := false
  draws := 0
  readData := none
  inbox := []

end Sys2Proof.Machine
end

