-- ==== Sys2Proof/Machine/Flags.lean ====
section
/-! DEFINITION. The block's flags: STATUS.FAULT and STATUS.CAUSE (10_state.md R23, 60_exceptions.md R200), the fault line
(60_exceptions.md R208) and FIT.FITS (10_state.md R29, 40_fit.md R90). -/

namespace Sys2Proof.Machine

/-- STATUS.FAULT, bit [0] (10_state.md R23). -/
def faulted (s : State) : Bool := s.status.getLsbD 0

/-- STATUS.CAUSE, bits [7:4] (10_state.md R23). -/
def causeField (s : State) : BitVec 4 := s.status.extractLsb' 4 4

/-- The code of a cause (60_exceptions.md R200). -/
def causeCode : Cause → BitVec 4
  | .illegalCmd => 1
  | .oob => 2
  | .addrRange => 3

/-- STATUS with FAULT = 1 and the given cause, every reserved bit 0 (10_state.md R23). -/
def faultStatus (c : Cause) : Word := 0#24 ++ causeCode c ++ 0#3 ++ 1#1

/-- The output line `irq_fault`: STATUS.FAULT at all times (60_exceptions.md R208). -/
def irqFault (s : State) : Bool := faulted s

/-- The bounds question of a fit check: an exact sum, no wrap (40_fit.md R90, 00_scope.md R7). -/
def fits (off n len : Nat) : Bool := decide (off + n ≤ len)

/-- FIT holding FITS in bit [0], bits [31:1] 0 (10_state.md R29). -/
def fitWord (b : Bool) : Word := 0#31 ++ BitVec.ofBool b

/-- FIT.FITS, bit [0] (10_state.md R29). -/
def fitsField (s : State) : Bool := s.fit.getLsbD 0

end Sys2Proof.Machine
end

