-- ==== Sys2Proof/Machine/Operands.lean ====
section
/-! DEFINITION. The operands of a command: the register operands (30_encoding.md R86), the fixed header sizes (R77), the
wire fields of a fetched header (R84, 20_memory.md R51), and the next-protocol tags and the result word (R75, R76). -/

namespace Sys2Proof.Machine

/-- The low `bits` bits of a written word, the rest 0 (10_state.md R25, R26, R27). -/
def lowBits (bits : Nat) (v : Word) : Word := BitVec.ofNat 32 (v.toNat % 2 ^ bits)

/-- The operand OFFSET, zero-extended (30_encoding.md R86). -/
def offsetOperand (s : State) : Nat := s.offset.toNat

/-- The operand BUF_LEN, zero-extended (30_encoding.md R86). -/
def bufLenOperand (s : State) : Nat := s.bufLen.toNat

/-- The operand BUF_BASE, zero-extended (30_encoding.md R86). -/
def bufBaseOperand (s : State) : Nat := s.bufBase.toNat

/-- The address of byte 0 of the header: BUF_BASE + OFFSET, exact (20_memory.md R54). -/
def headerAddress (s : State) : Nat := bufBaseOperand s + offsetOperand s

/-- `FixedSize(PROTO)` (30_encoding.md R77). -/
def fixedSize : Proto → Nat
  | .eth => 14
  | .vlan => 4
  | .ip4 => 20
  | .ip6 => 40
  | .ip6ext => 4
  | .tcp => 20
  | .udp => 8

/-- FRAG_HDR_SIZE (30_encoding.md R77). -/
def fragHdrSize : Nat := 8

/-- Byte `i` of a fetched header. A command asks only for bytes it has fetched. -/
def byteAt (h : List Byte) (i : Nat) : Byte := h.getD i 0

/-- `be16(h, i)`: a 16-bit field in network order (20_memory.md R51, 00_scope.md R8). -/
def be16 (h : List Byte) (i : Nat) : Half := byteAt h i ++ byteAt h (i + 1)

/-- Ethernet: ethertype, h[12..13] (30_encoding.md R84). -/
def ethType (h : List Byte) : Half := be16 h 12

/-- VLAN tag: inner ethertype, h[2..3] (30_encoding.md R84). -/
def vlanType (h : List Byte) : Half := be16 h 2

/-- IPv4: header length in 32-bit words, h[0][3:0] (30_encoding.md R84). -/
def ip4Ihl (h : List Byte) : Nat := ((byteAt h 0).extractLsb' 0 4).toNat

/-- IPv4: the more-fragments flag, h[6][5] (30_encoding.md R84). -/
def ip4MoreFragments (h : List Byte) : Bool := (byteAt h 6).getLsbD 5

/-- IPv4: protocol, h[9] (30_encoding.md R84). -/
def ip4Protocol (h : List Byte) : Byte := byteAt h 9

/-- IPv6: next header, h[6] (30_encoding.md R84). -/
def ip6NextHeader (h : List Byte) : Byte := byteAt h 6

/-- IPv6 extension probe: next header, h[0] (30_encoding.md R84). -/
def extNextHeader (h : List Byte) : Byte := byteAt h 0

/-- IPv6 extension probe: length field in 8-byte units beyond the first 8, h[1] (30_encoding.md R84). -/
def extLengthField (h : List Byte) : Nat := (byteAt h 1).toNat

/-- TCP: data offset in 32-bit words, h[12][7:4] (30_encoding.md R84). -/
def tcpDataOffset (h : List Byte) : Nat := ((byteAt h 12).extractLsb' 4 4).toNat

/-- The next-protocol tags, a closed set (30_encoding.md R75). There is no GRE or VXLAN tag. -/
inductive Tag where
  | none | unknown | ipv4 | ipv6 | vlan | tcp | udp | ip6Hbh | ip6Routing | ip6Frag | ip6Dstopt
  deriving DecidableEq, Repr

/-- The code of a tag (30_encoding.md R75). -/
def tagCode : Tag → Byte
  | .none => 0
  | .unknown => 1
  | .ipv4 => 2
  | .ipv6 => 3
  | .vlan => 4
  | .tcp => 5
  | .udp => 6
  | .ip6Hbh => 7
  | .ip6Routing => 8
  | .ip6Frag => 9
  | .ip6Dstopt => 10

/-- The tag of a code; codes 11 to 255 name no tag (30_encoding.md R75). -/
def tagOfCode (c : Byte) : Option Tag :=
  match c.toNat with
  | 0 => some .none
  | 1 => some .unknown
  | 2 => some .ipv4
  | 3 => some .ipv6
  | 4 => some .vlan
  | 5 => some .tcp
  | 6 => some .udp
  | 7 => some .ip6Hbh
  | 8 => some .ip6Routing
  | 9 => some .ip6Frag
  | 10 => some .ip6Dstopt
  | _ => Option.none

/-- `Result(tag, len)`: bits [31:24] 0, [23:16] the tag code, [15:0] the length (30_encoding.md R76). -/
def resultWord (t : Tag) (len : Nat) : Word := 0#8 ++ tagCode t ++ BitVec.ofNat 16 len

/-- RESULT.TAG, bits [23:16] (10_state.md R28). -/
def resultTagField (s : State) : Byte := s.result.extractLsb' 16 8

/-- RESULT.LEN, bits [15:0] (10_state.md R28). -/
def resultLenField (s : State) : Nat := (s.result.extractLsb' 0 16).toNat

end Sys2Proof.Machine
end

