-- ==== Sys2Proof/Machine/Ops.lean ====
section
/-! DEFINITION. The named operations: packet memory (20_memory.md), the shared prologue `Fetch` and the window write
`HdrWrite` of every extractor, entering the fault state and leaving it (60_exceptions.md R205, R207), the shared frame of
a fit check, of an extractor and of an illegal word, and the reading of registers (10_state.md R21). -/

namespace Sys2Proof.Machine

/-! ### Packet memory -/

/-- The canonical form: addresses strictly rising. An unlisted address has no value, so no entry can equal what one
reads as. -/
def Memory.wf : Memory → Bool
  | [] => true
  | [_] => true
  | c :: d :: m => decide (c.1 < d.1) && Memory.wf (d :: m)

/-- The byte written at an address, none where nothing has been written. -/
def Memory.read? : Memory → Nat → Option Byte
  | [], _ => none
  | c :: m, a => if c.1 = a then some c.2 else Memory.read? m a

/-- Memory with one byte written, in canonical form. -/
def Memory.write : Memory → Nat → Byte → Memory
  | [], a, b => [(a, b)]
  | c :: m, a, b =>
    if a < c.1 then (a, b) :: c :: m
    else if a = c.1 then (a, b) :: m
    else c :: Memory.write m a b

/-- What byte `a` of packet memory holds, after every completed write (10_state.md R34, 20_memory.md R60). A byte that
nothing has written is a free value (log entry 5). -/
def packetByte (s : State) (a : Nat) : Byte := (Memory.read? s.mem a).getD (Config.unwrittenByte a)

/-- The bytes that writes in progress would put at address `a`, oldest first (20_memory.md R58). -/
def racingBytes (s : State) (a : Nat) : List Byte := (s.inFlight.filter (fun c => c.1 == a)).map (·.2)

/-- The byte a command reads at address `a`: what packet memory holds, or, while writes to it are in progress, the held
value or one of theirs, by a free choice of its own (20_memory.md R58; log entry 6). -/
def sampledByte (s : State) (a : Nat) : Byte :=
  match racingBytes s a with
  | [] => packetByte s a
  | b :: rest => (packetByte s a :: b :: rest).getD (Config.raceChoice s.draws a % (rest.length + 2)) (packetByte s a)

/-- `MemRead(addr, n)`: the n bytes at addr to addr + n - 1, one snapshot (20_memory.md R53, R58). -/
def memRead (s : State) (addr n : Nat) : List Byte := (List.range n).map (fun i => sampledByte s (addr + i))

/-- `Fetch(n)`: the bounds-checked read of every extractor, OOB tested before ADDR_RANGE (20_memory.md R55,
60_exceptions.md R204). -/
def fetch (n : Nat) (s : State) : Except Cause (List Byte) :=
  if offsetOperand s + n > bufLenOperand s then .error .oob
  else if headerAddress s + n > s.cfg.pktMemBytes then .error .addrRange
  else .ok (memRead s (headerAddress s) n)

/-- The whole HDR window after `HdrWrite(h, n)`: the bytes of h, then zeros (20_memory.md R56). -/
def hdrImage (h : List Byte) : Vector Byte 40 := Vector.ofFn fun i => h.getD i.val 0

/-! ### The fault state and reset -/

/-- `raise Fault(c)` for the command word `w`: STATUS, FAULT_CMD and CMD, nothing else (60_exceptions.md R205). -/
def raiseFault (c : Cause) (w : Word) (s : State) : State :=
  { s with status := faultStatus c, faultCmd := w, cmd := w }

/-- The reset effect, the only way out of the fault state (70_reset_and_hazards.md R231, 60_exceptions.md R207): every piece of
the block's own state at its reset value. Packet memory, the writes in progress to it, the reset input, the parameters
and the host's side are not the block's and stay (log entry 12). -/
def resetBlock (s : State) : State :=
  { s with
    cmd := 0, status := 0, bufBase := 0, bufLen := 0, offset := 0, result := 0, fit := 0, faultCmd := 0,
    hdr := Vector.replicate 40 0 }

/-! ### The shared frames of the commands -/

/-- A fit check completes: CMD and FIT.FITS, nothing else (10_state.md R22, 40_fit.md R90). -/
def completeFit (w : Word) (b : Bool) (s : State) : State := { s with cmd := w, fit := fitWord b }

/-- An extractor completes: CMD, RESULT and the whole HDR window (10_state.md R22, R28, R31). `draws` counts the snapshot
taken (log entry 6). -/
def completeExtract (w : Word) (t : Tag) (len : Nat) (h : List Byte) (s : State) : State :=
  { s with cmd := w, result := resultWord t len, hdr := hdrImage h, draws := s.draws + 1 }

/-- A CMD write in the fault state has no effect at all; otherwise the command runs (10_state.md R22,
60_exceptions.md R206). -/
def issue (s t : State) : Host.Outcome State Fault Refusal := .next (if faulted s then s else t)

/-- `FitCheck(n)` as the command of word `w` (40_fit.md R90). -/
def fitCheck (w : Word) (n : Nat) (s : State) : Host.Outcome State Fault Refusal :=
  issue s (completeFit w (fits (offsetOperand s) n (bufLenOperand s)) s)

/-- The frame of an extractor of word `w` and fixed size `n`, with its rule for the tag and the consumed length:
`Fetch(n)`, then the fault it raises or the completion (41_link_layer.md, 42_ip.md, 43_transport.md). -/
def extract (w : Word) (n : Nat) (rule : List Byte → Tag × Nat) (s : State) : Host.Outcome State Fault Refusal :=
  issue s
    (match fetch n s with
      | .error c => raiseFault c w s
      | .ok h => completeExtract w (rule h).1 (rule h).2 h s)

/-- A CMD write of a word that is no command (60_exceptions.md R201). -/
def rejectCommand (w : Word) (s : State) : Host.Outcome State Fault Refusal := issue s (raiseFault .illegalCmd w s)

/-! ### Registers -/

/-- The register at an aligned byte offset; every other offset is unmapped (10_state.md R21, R32). -/
def registerAt (offset : Nat) : Option Register :=
  match offset with
  | 0x00 => some .cmd
  | 0x04 => some .status
  | 0x08 => some .ctrl
  | 0x0C => some .bufBase
  | 0x10 => some .bufLen
  | 0x14 => some .offset
  | 0x18 => some .result
  | 0x1C => some .fit
  | 0x20 => some .faultCmd
  | 0x40 => some (.hdr 0)
  | 0x44 => some (.hdr 1)
  | 0x48 => some (.hdr 2)
  | 0x4C => some (.hdr 3)
  | 0x50 => some (.hdr 4)
  | 0x54 => some (.hdr 5)
  | 0x58 => some (.hdr 6)
  | 0x5C => some (.hdr 7)
  | 0x60 => some (.hdr 8)
  | 0x64 => some (.hdr 9)
  | _ => none

/-- The byte offset of a register (10_state.md R21, R31). -/
def registerOffset : Register → Nat
  | .cmd => 0x00
  | .status => 0x04
  | .ctrl => 0x08
  | .bufBase => 0x0C
  | .bufLen => 0x10
  | .offset => 0x14
  | .result => 0x18
  | .fit => 0x1C
  | .faultCmd => 0x20
  | .hdr k => 0x40 + 4 * k.val

/-- HDRk: four bytes of the window, packed big-endian (10_state.md R31). -/
def hdrWord (s : State) (k : Fin 10) : Word :=
  s.hdr[4 * k.val] ++ s.hdr[4 * k.val + 1] ++ s.hdr[4 * k.val + 2] ++ s.hdr[4 * k.val + 3]

/-- The word a register reads as; no read has an effect, and CTRL reads 0 (10_state.md R21 to R32). -/
def readRegister (s : State) : Register → Word
  | .cmd => s.cmd
  | .status => s.status
  | .ctrl => 0
  | .bufBase => s.bufBase
  | .bufLen => s.bufLen
  | .offset => s.offset
  | .result => s.result
  | .fit => s.fit
  | .faultCmd => s.faultCmd
  | .hdr k => hdrWord s k

/-- The word an aligned 32-bit read gives: an unmapped offset reads 0 (10_state.md R32). -/
def readOffset (s : State) (offset : Nat) : Word :=
  match registerAt offset with
  | some r => readRegister s r
  | none => 0

end Sys2Proof.Machine
end

