-- ==== Sys2Proof/Machine/FitChecks.lean ====
section
/-! DEFINITION. The seven fit checks, FIT.* (40_fit.md R90 to R97). -/

namespace Sys2Proof.Machine

/-- FIT.ETH: `FitCheck(14)` (40_fit.md R91). -/
def execFitEth (s : State) : Host.Outcome State Fault Refusal := fitCheck (encode .fitEth) (fixedSize .eth) s

/-- FIT.VLAN: `FitCheck(4)` (40_fit.md R92). -/
def execFitVlan (s : State) : Host.Outcome State Fault Refusal := fitCheck (encode .fitVlan) (fixedSize .vlan) s

/-- FIT.IP4: `FitCheck(20)`, the base header only (40_fit.md R93). -/
def execFitIp4 (s : State) : Host.Outcome State Fault Refusal := fitCheck (encode .fitIp4) (fixedSize .ip4) s

/-- FIT.IP6: `FitCheck(40)` (40_fit.md R94). -/
def execFitIp6 (s : State) : Host.Outcome State Fault Refusal := fitCheck (encode .fitIp6) (fixedSize .ip6) s

/-- FIT.IP6EXT: `FitCheck(4)`, the probe only (40_fit.md R95). -/
def execFitIp6ext (s : State) : Host.Outcome State Fault Refusal :=
  fitCheck (encode .fitIp6ext) (fixedSize .ip6ext) s

/-- FIT.TCP: `FitCheck(20)`, the base header only (40_fit.md R96). -/
def execFitTcp (s : State) : Host.Outcome State Fault Refusal := fitCheck (encode .fitTcp) (fixedSize .tcp) s

/-- FIT.UDP: `FitCheck(8)` (40_fit.md R97). -/
def execFitUdp (s : State) : Host.Outcome State Fault Refusal := fitCheck (encode .fitUdp) (fixedSize .udp) s

end Sys2Proof.Machine
end

