-- ==== Sys2Proof/Machine/LinkLayer.lean ====
section
/-! DEFINITION. The link-layer extractors, EXT.ETH and EXT.VLAN (41_link_layer.md R100 to R105). -/

namespace Sys2Proof.Machine

/-- `eth_dispatch(etype)` (41_link_layer.md R101). -/
def ethDispatch (w : Wire) (etype : Half) : Tag :=
  if etype = w.etypeIpv4 then .ipv4
  else if etype = w.etypeVlan then .vlan
  else if etype = w.etypeIpv6 then .ipv6
  else .unknown

/-- `vlan_dispatch(etype)`: the Ethernet table without its 802.1Q row, so a second tag is UNKNOWN
(41_link_layer.md R103, R105). -/
def vlanDispatch (w : Wire) (etype : Half) : Tag :=
  if etype = w.etypeIpv4 then .ipv4
  else if etype = w.etypeIpv6 then .ipv6
  else .unknown

/-- EXT.ETH (41_link_layer.md R100). -/
def execExtEth (s : State) : Host.Outcome State Fault Refusal :=
  extract (encode .extEth) (fixedSize .eth) (fun h => (ethDispatch s.cfg.wire (ethType h), fixedSize .eth)) s

/-- EXT.VLAN (41_link_layer.md R102). -/
def execExtVlan (s : State) : Host.Outcome State Fault Refusal :=
  extract (encode .extVlan) (fixedSize .vlan) (fun h => (vlanDispatch s.cfg.wire (vlanType h), fixedSize .vlan)) s

end Sys2Proof.Machine
end

