-- ==== Sys2Proof/Machine/Network.lean ====
section
/-! DEFINITION. The network-layer extractors, EXT.IP4, EXT.IP6 and EXT.IP6EXT (42_ip.md R120 to R129). -/

namespace Sys2Proof.Machine

/-- `ip4_dispatch(proto)` (42_ip.md R120). -/
def ip4Dispatch (w : Wire) (proto : Byte) : Tag :=
  if proto = w.protoTcp then .tcp
  else if proto = w.protoUdp then .udp
  else .unknown

/-- `nh_dispatch(nh)`, the shared IPv6 next-header table (42_ip.md R124). -/
def nhDispatch (w : Wire) (nh : Byte) : Tag :=
  if nh = w.nhTcp then .tcp
  else if nh = w.nhUdp then .udp
  else if nh = w.nhHbh then .ip6Hbh
  else if nh = w.nhRouting then .ip6Routing
  else if nh = w.nhFrag then .ip6Frag
  else if nh = w.nhNone then .none
  else if nh = w.nhDstopt then .ip6Dstopt
  else .unknown

/-- The tag of EXT.IP4: UNKNOWN when MF is set, whatever the protocol field holds (42_ip.md R121, R122). -/
def ip4Tag (w : Wire) (h : List Byte) : Tag :=
  if ip4MoreFragments h then .unknown else ip4Dispatch w (ip4Protocol h)

/-- The consumed length of EXT.IP6EXT: 8 when the RESOLVED next protocol is the fragment header, else
8 + 8 * elen (42_ip.md R127). -/
def extLength (t : Tag) (h : List Byte) : Nat := if t = .ip6Frag then fragHdrSize else 8 + 8 * extLengthField h

/-- EXT.IP4 (42_ip.md R121, R123). -/
def execExtIp4 (s : State) : Host.Outcome State Fault Refusal :=
  extract (encode .extIp4) (fixedSize .ip4) (fun h => (ip4Tag s.cfg.wire h, 4 * ip4Ihl h)) s

/-- EXT.IP6 (42_ip.md R125). -/
def execExtIp6 (s : State) : Host.Outcome State Fault Refusal :=
  extract (encode .extIp6) (fixedSize .ip6) (fun h => (nhDispatch s.cfg.wire (ip6NextHeader h), fixedSize .ip6)) s

/-- EXT.IP6EXT (42_ip.md R126, R127, R128). -/
def execExtIp6ext (s : State) : Host.Outcome State Fault Refusal :=
  extract (encode .extIp6ext) (fixedSize .ip6ext)
    (fun h =>
      let t := nhDispatch s.cfg.wire (extNextHeader h)
      (t, extLength t h)) s

end Sys2Proof.Machine
end

