-- ==== Sys2Proof/Machine/Transport.lean ====
section
/-! DEFINITION. The transport-layer extractors, EXT.TCP and EXT.UDP (43_transport.md R150 to R152). -/

namespace Sys2Proof.Machine

/-- EXT.TCP: always NONE, and 4 times the data offset (43_transport.md R150). -/
def execExtTcp (s : State) : Host.Outcome State Fault Refusal :=
  extract (encode .extTcp) (fixedSize .tcp) (fun h => (Tag.none, 4 * tcpDataOffset h)) s

/-- EXT.UDP: always NONE, and the fixed header size, never the UDP length field (43_transport.md R151). -/
def execExtUdp (s : State) : Host.Outcome State Fault Refusal :=
  extract (encode .extUdp) (fixedSize .udp) (fun _ => (Tag.none, fixedSize .udp)) s

end Sys2Proof.Machine
end

