-- ==== Sys2Proof/Machine/Dispatch.lean ====
section
/-! DEFINITION. One arm per command, each a direct call of its meaning. -/

namespace Sys2Proof.Machine

def exec (i : Instr) (s : State) : Host.Outcome State Fault Refusal :=
  match i with
  | .fitEth => Sys2Proof.Machine.execFitEth s
  | .fitVlan => Sys2Proof.Machine.execFitVlan s
  | .fitIp4 => Sys2Proof.Machine.execFitIp4 s
  | .fitIp6 => Sys2Proof.Machine.execFitIp6 s
  | .fitIp6ext => Sys2Proof.Machine.execFitIp6ext s
  | .fitTcp => Sys2Proof.Machine.execFitTcp s
  | .fitUdp => Sys2Proof.Machine.execFitUdp s
  | .extEth => Sys2Proof.Machine.execExtEth s
  | .extVlan => Sys2Proof.Machine.execExtVlan s
  | .extIp4 => Sys2Proof.Machine.execExtIp4 s
  | .extIp6 => Sys2Proof.Machine.execExtIp6 s
  | .extIp6ext => Sys2Proof.Machine.execExtIp6ext s
  | .extTcp => Sys2Proof.Machine.execExtTcp s
  | .extUdp => Sys2Proof.Machine.execExtUdp s

end Sys2Proof.Machine
end

