-- ==== Sys2Proof/Machine/HostPort.lean ====
section
/-! DEFINITION. The host interface (10_state.md R21 to R37): what each action of an agent around the block does, the
taking of the next one, and where the platform places the registers. -/

namespace Sys2Proof.Machine

/-- A CMD write: the word is decoded and its command runs, or it is rejected (10_state.md R22, 30_encoding.md R73). -/
def writeCmd (w : Word) (s : State) : Host.Outcome State Fault Refusal :=
  match decode w with
  | .ok i => exec i s
  | .error _ => rejectCommand w s

/-- A CTRL write: bit [0] SRST performs a soft reset, the other bits are ignored, in the fault state too
(10_state.md R24). -/
def writeCtrl (v : Word) (s : State) : State := if v.getLsbD 0 then resetBlock s else s

/-- An aligned 32-bit write to a register; writes to RO registers are ignored (10_state.md R22 to R32). -/
def writeRegister (r : Register) (v : Word) (s : State) : Host.Outcome State Fault Refusal :=
  match r with
  | .cmd => writeCmd v s
  | .status => .next s
  | .ctrl => .next (writeCtrl v s)
  | .bufBase => .next { s with bufBase := lowBits s.cfg.pktAddrBits v }
  | .bufLen => .next { s with bufLen := lowBits s.cfg.offsetBits v }
  | .offset => .next { s with offset := lowBits s.cfg.offsetBits v }
  | .result => .next s
  | .fit => .next s
  | .faultCmd => .next s
  | .hdr _ => .next s

/-- An aligned 32-bit write at an offset; writes to unmapped offsets are ignored (10_state.md R32). -/
def writeOffset (offset : Nat) (v : Word) (s : State) : Host.Outcome State Fault Refusal :=
  match registerAt offset with
  | some r => writeRegister r v s
  | none => .next s

/-- A register access is 32 bits wide and aligned, or it is refused by name (10_state.md R33; the width is looked at
first, log entry 8). -/
def checkAccess (bits offset : Nat) (o : Host.Outcome State Fault Refusal) : Host.Outcome State Fault Refusal :=
  if bits ≠ 32 then .refused (.accessNotWordWide bits)
  else if offset % 4 ≠ 0 then .refused (.accessNotAligned offset)
  else o

/-- A register write. The block accepts none while the reset input is asserted (70_reset_and_hazards.md R230; log entry 9). -/
def busWrite (bits offset : Nat) (v : Word) (s : State) : Host.Outcome State Fault Refusal :=
  checkAccess bits offset (if s.resetLine then .next s else writeOffset offset v s)

/-- A register read: no effect on the block, the host gets a word back (10_state.md R36). The block accepts none while the
reset input is asserted, so the host then gets none (70_reset_and_hazards.md R230; log entries 9, 10). -/
def busRead (bits offset : Nat) (s : State) : Host.Outcome State Fault Refusal :=
  checkAccess bits offset
    (.next { s with readData := if s.resetLine then none else some (readOffset s offset) })

/-- A platform agent starts to write a byte of packet memory (20_memory.md R58, R61; log entries 6, 7). -/
def startPacketWrite (addr : Nat) (b : Byte) (s : State) : Host.Outcome State Fault Refusal :=
  if addr < s.cfg.pktMemBytes then .next { s with inFlight := s.inFlight ++ [(addr, b)] }
  else .fault (.packetAddressAbsent addr)

/-- The packet memory write at place `k` completes: from now on every command reads its byte (20_memory.md R60). With
no write there, nothing completes (log entry 6). -/
def finishPacketWrite (k : Nat) (s : State) : Host.Outcome State Fault Refusal :=
  match s.inFlight[k]? with
  | some c => .next { s with mem := Memory.write s.mem c.1 c.2, inFlight := s.inFlight.eraseIdx k }
  | none => .next s

/-- The hardware reset input is asserted: the reset effect, and no register access until its release
(70_reset_and_hazards.md R230, R231). -/
def assertReset (s : State) : State := { resetBlock s with resetLine := true }

/-- The hardware reset input is released: the block is idle (70_reset_and_hazards.md R230, R232). -/
def releaseReset (s : State) : State := { s with resetLine := false }

/-- What one action of an agent around the block does (10_state.md R36). -/
def perform (a : HostAction) (s : State) : Host.Outcome State Fault Refusal :=
  match a with
  | .write bits offset v => busWrite bits offset v s
  | .read bits offset => busRead bits offset s
  | .packetWriteStart addr b => startPacketWrite addr b s
  | .packetWriteDone k => finishPacketWrite k s
  | .resetAssert => .next (assertReset s)
  | .resetRelease => .next (releaseReset s)

/-- One step: the next action, in the order the agents act (20_memory.md R60). With none to come the block is idle
(70_reset_and_hazards.md R232; log entry 8). -/
def takeAction (s : State) : Host.Outcome State Fault Refusal :=
  match s.inbox with
  | [] => .next s
  | a :: rest => perform a { s with inbox := rest }

/-- `wr REG, v` of the host notation (30_encoding.md R85). -/
def wr (r : Register) (v : Word) : HostAction := .write 32 (registerOffset r) v

/-- `rd REG` of the host notation (30_encoding.md R85). -/
def rd (r : Register) : HostAction := .read 32 (registerOffset r)

/-- The pseudo-instruction `cmd M`: `wr CMD, word(M)` (30_encoding.md R85). -/
def cmd (i : Instr) : HostAction := wr .cmd (encode i)

/-- The platform address of a register: its offset from the register base (10_state.md R21). -/
def registerAddress (c : Config) (r : Register) : Nat := c.regBase + registerOffset r

/-- The byte offset from the register base that a platform address stands for; an address below the base is none of the
block's (10_state.md R21; log entry 4). -/
def offsetOfAddress (c : Config) (addr : Nat) : Option Nat :=
  if c.regBase ≤ addr then some (addr - c.regBase) else none

/-- The register write that a write at a platform address is for the block, which sees its offset (10_state.md R21, R36). -/
def writeAt (c : Config) (bits addr : Nat) (v : Word) : Option HostAction :=
  (offsetOfAddress c addr).map fun off => .write bits off v

/-- The register read that a read at a platform address is for the block (10_state.md R21, R36). -/
def readAt (c : Config) (bits addr : Nat) : Option HostAction :=
  (offsetOfAddress c addr).map fun off => .read bits off

/-- The state in which a CMD write of `w` is the next action and is accepted. -/
def withCommandNext (s : State) (w : Word) : State :=
  { s with resetLine := false, inbox := wr .cmd w :: s.inbox }

end Sys2Proof.Machine
end

