-- ==== Sys2Proof/Machine/Step.lean ====
section
/-! DEFINITION. The step of the machine, and where an instruction stands for it: a CMD write as the next action. -/

namespace Sys2Proof.Machine

/-- One step of the machine (00_scope.md R12, 20_memory.md R60). -/
def step (s : State) : Host.Outcome State Fault Refusal := Sys2Proof.Machine.takeAction s

/-- `s` with the command word whose low `nbits` bits are those of `w` (the rest zero) about to be written to CMD
(10_state.md R22, log entry 1). -/
def State.withFetchWord (s : State) (nbits w : Nat) : State :=
  Sys2Proof.Machine.withCommandNext s (BitVec.ofNat 32 (w % 2 ^ nbits))

end Sys2Proof.Machine
end

