-- ==== Sys2Proof/Machine/Parser.lean ====
section
/-! DEFINITION. The protocol-stack parser state machine (44_parser_fsm.md R170 to R179): a program of the host over the
block. The block keeps none of its state (10_state.md R20), so it stands beside State, not in it. -/

namespace Sys2Proof.Machine

/-- The states of the machine (44_parser_fsm.md R170). -/
inductive ParseState where
  | eth | vlan | ipv4 | ipv6 | ipv6Ext | tcp | udp | endNone | endUnknown
  deriving DecidableEq, Repr

/-- The protocol whose fit check and extractor a parse state uses; a terminal state has none (R172, R175). -/
def parseProto : ParseState → Option Proto
  | .eth => some .eth
  | .vlan => some .vlan
  | .ipv4 => some .ip4
  | .ipv6 => some .ip6
  | .ipv6Ext => some .ip6ext
  | .tcp => some .tcp
  | .udp => some .udp
  | .endNone => none
  | .endUnknown => none

/-- `next_state(tag)` (44_parser_fsm.md R173). -/
def nextState : Tag → ParseState
  | .none => .endNone
  | .unknown => .endUnknown
  | .ipv4 => .ipv4
  | .ipv6 => .ipv6
  | .vlan => .vlan
  | .tcp => .tcp
  | .udp => .udp
  | .ip6Hbh => .ipv6Ext
  | .ip6Routing => .ipv6Ext
  | .ip6Frag => .ipv6Ext
  | .ip6Dstopt => .ipv6Ext

/-- What one transition gives the caller (44_parser_fsm.md R174). -/
inductive Move where
  /-- The next parse position. -/
  | moved (next : ParseState) (off : Nat)
  /-- TRUNCATED: the header does not fit (R174, D29), or OFFSET cannot hold the cursor
  (70_reset_and_hazards.md R237). -/
  | truncated
  /-- RESULT.TAG holds a code that names no tag: "never produced" (30_encoding.md R75; log entry 11). -/
  | noTag
  deriving DecidableEq, Repr

/-- Goes on after a host action, where it gave a next state. -/
def andThen {α : Type} (o : Host.Outcome State Fault Refusal) (k : State → Host.Outcome α Fault Refusal) :
    Host.Outcome α Fault Refusal :=
  match o with
  | .next s => k s
  | .fault r => .fault r
  | .refused r => .refused r

/-- The caller's last lines of `Transition`: read RESULT and advance the cursor, exactly (44_parser_fsm.md R174). -/
def readMove (off : Nat) (s : State) : Host.Outcome (Move × State) Fault Refusal :=
  match tagOfCode (resultTagField s) with
  | some t => .next (.moved (nextState t) (off + resultLenField s), s)
  | none => .next (.noTag, s)

/-- `Transition(S, off)` for the parse state of protocol `p` (44_parser_fsm.md R174). A cursor that OFFSET cannot hold is
TRUNCATED before anything is written (70_reset_and_hazards.md R237). -/
def transition (p : Proto) (off : Nat) (s : State) : Host.Outcome (Move × State) Fault Refusal :=
  if off < 2 ^ s.cfg.offsetBits then
    andThen (perform (wr .offset (BitVec.ofNat 32 off)) s) fun s1 =>
      andThen (perform (cmd (fitCheckOf p)) s1) fun s2 =>
        if fitsField s2 then andThen (perform (cmd (extractorOf p)) s2) (readMove off)
        else .next (.truncated, s2)
  else .next (.truncated, s)

/-- How a parse ends for the caller (44_parser_fsm.md R174, R175). -/
inductive ParseEnd where
  | endNone | endUnknown | truncated | noTag
  /-- The bound on the number of transitions given to `parse` was reached. -/
  | outOfFuel
  deriving DecidableEq, Repr

/-- How the parse ends in a terminal state; the other seven are parse states (R170, R175). -/
def parseEnd : ParseState → Option ParseEnd
  | .eth => none
  | .vlan => none
  | .ipv4 => none
  | .ipv6 => none
  | .ipv6Ext => none
  | .tcp => none
  | .udp => none
  | .endNone => some .endNone
  | .endUnknown => some .endUnknown

/-- The caller's loop, at most `fuel` transitions from the parse position `(at_, off)` (44_parser_fsm.md R171, R174, R175,
R178): how it ends, the final cursor, and the state of the block. -/
def parse : (fuel : Nat) → (at_ : ParseState) → (off : Nat) → (s : State) →
    Host.Outcome (ParseEnd × Nat × State) Fault Refusal
  | 0, at_, off, s => .next ((parseEnd at_).getD .outOfFuel, off, s)
  | k + 1, at_, off, s =>
    match parseProto at_ with
    | none => .next ((parseEnd at_).getD .outOfFuel, off, s)
    | some p =>
      match transition p off s with
      | .next (.moved q off', s') => parse k q off' s'
      | .next (.truncated, s') => .next (.truncated, off, s')
      | .next (.noTag, s') => .next (.noTag, off, s')
      | .fault r => .fault r
      | .refused r => .refused r

end Sys2Proof.Machine
end

