-- ==== Sys2Proof/Safety.lean ====
section
/-! DEFINITION. The terms claims are stated in: the block at its reset values, a host that has described its buffer, a
quiet stretch of packet memory, what a completed extraction looks like, and the invariant that every step keeps. -/

namespace Sys2Proof.Machine

/-- Every piece of the block's own state is at its reset value (70_reset_and_hazards.md R231). -/
structure BlockAtReset (s : State) : Prop where
  cmd : s.cmd = 0
  status : s.status = 0
  bufBase : s.bufBase = 0
  bufLen : s.bufLen = 0
  offset : s.offset = 0
  result : s.result = 0
  fit : s.fit = 0
  faultCmd : s.faultCmd = 0
  hdr : ∀ k : Fin 40, s.hdr[k] = 0
  irq : irqFault s = false

/-- The fixed header of protocol `p` fits in the buffer (40_fit.md R90). -/
abbrev HeaderFits (p : Proto) (s : State) : Prop := s.offset.toNat + fixedSize p ≤ s.bufLen.toNat

/-- The fixed header of protocol `p` lies inside packet memory (20_memory.md R55). -/
abbrev HeaderReadable (p : Proto) (s : State) : Prop :=
  s.bufBase.toNat + s.offset.toNat + fixedSize p ≤ s.cfg.pktMemBytes

/-- The buffer the host describes lies inside packet memory (70_reset_and_hazards.md R233 (a)). -/
abbrev BufferInside (s : State) : Prop := s.bufBase.toNat + s.bufLen.toNat ≤ s.cfg.pktMemBytes

/-- No write to the `n` bytes from address `a` is in progress (70_reset_and_hazards.md R237, duty 6). -/
abbrev Quiet (s : State) (a n : Nat) : Prop := ∀ c ∈ s.inFlight, c.1 < a ∨ a + n ≤ c.1

/-- The bytes of the header of protocol `p` that a command would fetch. -/
def headerOf (p : Proto) (s : State) : List Byte :=
  memRead s (s.bufBase.toNat + s.offset.toNat) (fixedSize p)

/-- `c` is the code of `t` in the table of 30_encoding.md R75, its eleven rows written out. -/
abbrev TagHasCode (t : Tag) (c : Byte) : Prop :=
  (t, c) ∈ [(Tag.none, (0 : Byte)), (.unknown, 1), (.ipv4, 2), (.ipv6, 3), (.vlan, 4), (.tcp, 5), (.udp, 6),
    (.ip6Hbh, 7), (.ip6Routing, 8), (.ip6Frag, 9), (.ip6Dstopt, 10)]

/-- `t` is `s` after the extractor `i` has completed with this tag and consumed length: CMD, RESULT and HDR are
written (and the model's count of snapshots), everything else is as before, every byte of packet memory too
(41_link_layer.md, introduction; 20_memory.md R56; 30_encoding.md R75, R76). -/
structure Extracted (i : Instr) (tag : Tag) (len : Nat) (s t : State) : Prop where
  frame : t = { s with cmd := encode i, result := t.result, hdr := t.hdr, draws := t.draws }
  memory : ∀ a, packetByte t a = packetByte s a
  reserved : t.result.extractLsb' 24 8 = 0
  tag : TagHasCode tag (t.result.extractLsb' 16 8)
  len : (t.result.extractLsb' 0 16).toNat = len
  window : ∀ k : Fin 40, t.hdr[k] =
    if k.val < fixedSize (protoOf i) then sampledByte s (s.bufBase.toNat + s.offset.toNat + k.val) else 0

/-- `s` after the command of word `w` has entered the fault state with this STATUS word: STATUS, FAULT_CMD and CMD are
written, nothing else (60_exceptions.md R205). -/
def faultEntered (status w : Word) (s : State) : State := { s with status := status, faultCmd := w, cmd := w }

/-- The extractor `i` faults exactly as `Fetch` says, when commands run: OOB when the header does not fit, ADDR_RANGE
when it fits and is not readable (20_memory.md R55, 60_exceptions.md R202, R203). -/
def FaultsOutOfRange (i : Instr) (s : State) : Prop :=
  (¬HeaderFits (protoOf i) s → exec i s = .next (faultEntered 0x00000021 (encode i) s)) ∧
    (HeaderFits (protoOf i) s → ¬HeaderReadable (protoOf i) s →
      exec i s = .next (faultEntered 0x00000031 (encode i) s))

/-- `s` in a platform that places the block's registers at `base` (10_state.md R21, R37). -/
def placedAt (base : Nat) (s : State) : State := { s with cfg := { s.cfg with regBase := base } }

/-- What holds of every state a machine with legal parameters reaches. -/
structure Inv (s : State) : Prop where
  /-- The parameters are legal (00_scope.md R5). -/
  cfg : s.cfg.wf = true
  /-- Bits [31:A] of BUF_BASE read 0 (10_state.md R25). -/
  bufBase : s.bufBase.toNat < 2 ^ s.cfg.pktAddrBits
  /-- Bits [31:W] of BUF_LEN read 0 (10_state.md R26). -/
  bufLen : s.bufLen.toNat < 2 ^ s.cfg.offsetBits
  /-- Bits [31:W] of OFFSET read 0 (10_state.md R27). -/
  offset : s.offset.toNat < 2 ^ s.cfg.offsetBits
  /-- STATUS is 0 or FAULT with one of the three causes, reserved bits 0 (10_state.md R23, 60_exceptions.md R200). -/
  status : s.status = 0 ∨ s.status = 0x00000011 ∨ s.status = 0x00000021 ∨ s.status = 0x00000031
  /-- FIT[31:1] read 0 (10_state.md R29). -/
  fit : s.fit = 0 ∨ s.fit = 1
  /-- RESULT[31:24] read 0, TAG is one of the eleven codes, LEN at most 2048 (30_encoding.md R75, R76). -/
  result : s.result.extractLsb' 24 8 = 0 ∧ (s.result.extractLsb' 16 8).toNat ≤ 10 ∧
    (s.result.extractLsb' 0 16).toNat ≤ 2048
  /-- Outside the fault state FAULT_CMD still has its reset value and CMD holds a legal word (10_state.md R22, R30). -/
  running : s.status = 0 → s.faultCmd = 0 ∧ ∃ i, s.cmd = encode i
  /-- In the fault state CMD stays the word that faulted (10_state.md R22, 60_exceptions.md R206). -/
  stuck : s.status ≠ 0 → s.cmd = s.faultCmd
  /-- CAUSE = ILLEGAL_CMD says that FAULT_CMD is no command (60_exceptions.md R201). -/
  illegal : s.status = 0x00000011 → ∀ i, s.faultCmd ≠ encode i
  /-- CAUSE = OOB or ADDR_RANGE says that FAULT_CMD is an extractor (60_exceptions.md R202, R203). -/
  extractor : s.status = 0x00000021 ∨ s.status = 0x00000031 → ∃ i, isExtractor i = true ∧ s.faultCmd = encode i
  /-- Packet memory keeps its canonical form. -/
  memWf : Memory.wf s.mem = true
  /-- Packet memory has no byte past PKT_MEM_BYTES (10_state.md R34). -/
  memRange : ∀ c ∈ s.mem, c.1 < s.cfg.pktMemBytes
  /-- Nor is one being written (10_state.md R34). -/
  inFlightRange : ∀ c ∈ s.inFlight, c.1 < s.cfg.pktMemBytes
  /-- While the reset input is asserted the block is at its reset values (70_reset_and_hazards.md R230, R231). -/
  held : s.resetLine = true → BlockAtReset s

end Sys2Proof.Machine
end

