-- ==== Sys2Proof/Certificates/Slice0/Obligations.lean ====
section
/-! DEFINITION. The statements for the provers. Each docstring names the rules of spec/ it formalises. -/

open Sys2Proof Sys2Proof.Machine

/-- Decode and encode agree on every word and every command (30_encoding.md R70 to R74). -/
def Obligations.DecodeInvertsEncode : Prop :=
  ∀ (w : Word) (i : Instr), decode w = .ok i ↔ w = encode i

/-- The fourteen words of 30_encoding.md R74, and no other word, decode to their commands. -/
def Obligations.DecodeIsTheOpcodeMap : Prop :=
  ∀ (w : Word) (i : Instr), decode w = .ok i ↔
    (i, w) ∈ [(Instr.fitEth, (0x00000000 : Word)), (.fitVlan, 0x00000001), (.fitIp4, 0x00000002),
      (.fitIp6, 0x00000003), (.fitIp6ext, 0x00000004), (.fitTcp, 0x00000005), (.fitUdp, 0x00000006),
      (.extEth, 0x00000010), (.extVlan, 0x00000011), (.extIp4, 0x00000012), (.extIp6, 0x00000013),
      (.extIp6ext, 0x00000014), (.extTcp, 0x00000015), (.extUdp, 0x00000016)]

/-- One word of each family, and three illegal ones (30_encoding.md R74, 95_test_vectors.md V-DEC-1, V-DEC-3, V-DEC-4). -/
def Obligations.SampleWordsDecodeRight : Prop :=
  decode 0x00000002 = .ok .fitIp4 ∧ decode 0x00000005 = .ok .fitTcp ∧ decode 0x00000011 = .ok .extVlan ∧
    decode 0x00000013 = .ok .extIp6 ∧ decode 0x00000016 = .ok .extUdp ∧
    decode 0x00000007 = .error .reservedProto ∧ decode 0x00000020 = .error .reservedBits ∧
    decode 0x80000010 = .error .reservedBits

/-- The first sentence of 30_encoding.md R73; what an illegal word does is IllegalWordEntersFaultState. -/
def Obligations.LegalWordsAreRsvdZeroProtoAtMostSix : Prop :=
  ∀ w : Word, (∃ i, decode w = .ok i) ↔ (w.extractLsb' 5 27 = 0 ∧ (w.extractLsb' 0 4).toNat ≤ 6)

/-- A CMD write decodes the word and runs its command (10_state.md R22, 30_encoding.md R73). That commands come from the inbox is the model's choice, log entry 1. -/
def Obligations.StepRunsTheDecodedCommand : Prop :=
  (∀ (s : State) (w : Word) (i : Instr) (rest : List HostAction), s.resetLine = false →
      s.inbox = wr .cmd w :: rest → decode w = .ok i → step s = exec i { s with inbox := rest }) ∧
    (∀ (s : State) (n : Nat) (i : Instr), n < 2 ^ 32 → decode (BitVec.ofNat 32 n) = .ok i →
      step (s.withFetchWord 32 n) = exec i { s with resetLine := false })

/-- "it does nothing until the host writes CMD" (70_reset_and_hazards.md R232); the idle step is the model's, log entry 8. -/
def Obligations.IdleStepChangesNothing : Prop :=
  ∀ s : State, s.inbox = [] → step s = .next s

/-- 60_exceptions.md R201, with the STATUS word of 95_test_vectors.md. -/
def Obligations.IllegalWordEntersFaultState : Prop :=
  ∀ (s : State) (w : Word), faulted s = false → s.resetLine = false →
    (w.extractLsb' 5 27 ≠ 0 ∨ (w.extractLsb' 0 4).toNat > 6) →
    perform (wr .cmd w) s = .next (faultEntered 0x00000011 w s)

/-- 60_exceptions.md R206. -/
def Obligations.FaultStateIgnoresCommandsOnly : Prop :=
  ∀ s : State, faulted s = true →
    (∀ i, exec i s = .next s) ∧
    (s.resetLine = false →
      (∀ w, perform (wr .cmd w) s = .next s) ∧
      (∀ r, perform (rd r) s = .next { s with readData := some (readRegister s r) }) ∧
      (∀ v, perform (wr .bufBase v) s = .next { s with bufBase := lowBits s.cfg.pktAddrBits v }) ∧
      (∀ v, perform (wr .bufLen v) s = .next { s with bufLen := lowBits s.cfg.offsetBits v }) ∧
      (∀ v, perform (wr .offset v) s = .next { s with offset := lowBits s.cfg.offsetBits v }) ∧
      (∀ v, perform (wr .ctrl v) s = .next (if v.getLsbD 0 then resetBlock s else s)))

/-- 60_exceptions.md R202. -/
def Obligations.OobFaultsBeforeReading : Prop :=
  ∀ (i : Instr) (s : State), faulted s = false → ¬HeaderFits (protoOf i) s →
    (isExtractor i = true → exec i s = .next (faultEntered 0x00000021 (encode i) s)) ∧
    (isExtractor i = false → exec i s = .next { s with cmd := encode i, fit := 0 })

/-- 60_exceptions.md R203. -/
def Obligations.UnreadableHeaderRaisesAddrRange : Prop :=
  ∀ (i : Instr) (s : State), faulted s = false → isExtractor i = true → HeaderFits (protoOf i) s →
    ¬HeaderReadable (protoOf i) s → exec i s = .next (faultEntered 0x00000031 (encode i) s)

/-- 60_exceptions.md R204. -/
def Obligations.CommandReportsFirstApplyingCause : Prop :=
  ∀ (s : State) (w : Word), s.status = 0 → s.resetLine = false →
    ∃ t, perform (wr .cmd w) s = .next t ∧ (faulted t = true ↔ causeField t ≠ 0) ∧
      (∀ e, decode w = .error e → causeField t = 1) ∧
      (∀ i, decode w = .ok i →
        (isExtractor i = true → ¬HeaderFits (protoOf i) s → causeField t = 2) ∧
        (isExtractor i = true → HeaderFits (protoOf i) s → ¬HeaderReadable (protoOf i) s → causeField t = 3) ∧
        (isExtractor i = false ∨ HeaderFits (protoOf i) s ∧ HeaderReadable (protoOf i) s → causeField t = 0))

/-- 60_exceptions.md R205. -/
def Obligations.FaultEntryIsPrecise : Prop :=
  ∀ (s t : State) (w : Word), faulted s = false → perform (wr .cmd w) s = .next t → faulted t = true →
    t = { s with status := t.status, faultCmd := w, cmd := w } ∧
      (t.status = 0x00000011 ∨ t.status = 0x00000021 ∨ t.status = 0x00000031)

/-- 60_exceptions.md R207. -/
def Obligations.OnlyAResetLeavesTheFaultState : Prop :=
  (∀ s t : State, step s = .next t → faulted s = true → faulted t = false →
      ((∃ rest, s.inbox = .resetAssert :: rest) ∨
        (∃ v rest, s.inbox = .write 32 0x08 v :: rest ∧ v.getLsbD 0 = true ∧ s.resetLine = false)) ∧
      BlockAtReset t) ∧
    (∀ s : State, ∃ t, perform .resetAssert s = .next t ∧ faulted t = false) ∧
    (∀ (s : State) (v : Word), s.resetLine = false → v.getLsbD 0 = true →
      ∃ t, perform (wr .ctrl v) s = .next t ∧ faulted t = false)

/-- "FAULT and CAUSE change only on fault entry (60_exceptions.md rule R205) and on reset" (10_state.md R23). -/
def Obligations.StatusChangesOnlyOnFaultEntryAndReset : Prop :=
  ∀ s t : State, step s = .next t → t.status ≠ s.status →
    (faulted s = false ∧ faulted t = true ∧ s.resetLine = false ∧ ∃ w rest, s.inbox = .write 32 0x00 w :: rest) ∨
    (t.status = 0 ∧ ((∃ rest, s.inbox = .resetAssert :: rest) ∨
      (∃ v rest, s.inbox = .write 32 0x08 v :: rest ∧ v.getLsbD 0 = true ∧ s.resetLine = false)))

/-- 60_exceptions.md R208. -/
def Obligations.FaultLineFollowsStatusFault : Prop :=
  ∀ s : State, irqFault s = s.status.getLsbD 0 ∧ (∀ c w, irqFault (raiseFault c w s) = true) ∧
    irqFault (resetBlock s) = false ∧ irqFault (assertReset s) = false

/-- 40_fit.md R90 to R97; CMD is set by the write itself (10_state.md R22). -/
def Obligations.FitChecksAnswerTheBound : Prop :=
  ∀ (i : Instr) (n : Nat) (w : Word),
    (i, n, w) ∈ [(Instr.fitEth, 14, (0x00000000 : Word)), (.fitVlan, 4, 0x00000001), (.fitIp4, 20, 0x00000002),
      (.fitIp6, 40, 0x00000003), (.fitIp6ext, 4, 0x00000004), (.fitTcp, 20, 0x00000005),
      (.fitUdp, 8, 0x00000006)] →
    ∀ s : State, faulted s = false →
      exec i s = .next { s with cmd := w, fit := if s.offset.toNat + n ≤ s.bufLen.toNat then 1 else 0 }

/-- 40_fit.md R98. -/
def Obligations.FitAgreesWithExtractor : Prop :=
  ∀ (p : Proto) (s t : State), faulted s = false → exec (fitCheckOf p) s = .next t →
    (fitsField t = true ↔ fetch (fixedSize p) s ≠ .error .oob) ∧
    (∀ u v : State, fitsField t = true → u.status = 0 → u.offset = s.offset → u.bufLen = s.bufLen →
      exec (extractorOf p) u = .next v →
      causeField v ≠ 2 ∧ (causeField v = 3 → u.bufBase.toNat + u.bufLen.toNat > u.cfg.pktMemBytes))

/-- 41_link_layer.md R100; the ethertype is written from its bytes (20_memory.md R51, 30_encoding.md R84). -/
def Obligations.ExtEthExtracts : Prop :=
  ∀ s : State, faulted s = false →
    (HeaderFits .eth s → HeaderReadable .eth s →
      ∃ t, exec .extEth s = .next t ∧
        Extracted .extEth (ethDispatch s.cfg.wire
          ((headerOf .eth s).getD 12 0 ++ (headerOf .eth s).getD 13 0)) 14 s t) ∧
    FaultsOutOfRange .extEth s

/-- 41_link_layer.md R102; the inner ethertype is written from its bytes (20_memory.md R51, 30_encoding.md R84). -/
def Obligations.ExtVlanExtracts : Prop :=
  ∀ s : State, faulted s = false →
    (HeaderFits .vlan s → HeaderReadable .vlan s →
      ∃ t, exec .extVlan s = .next t ∧
        Extracted .extVlan (vlanDispatch s.cfg.wire
          ((headerOf .vlan s).getD 2 0 ++ (headerOf .vlan s).getD 3 0)) 4 s t) ∧
    FaultsOutOfRange .extVlan s

/-- 42_ip.md R121, R122, R123. -/
def Obligations.ExtIp4Extracts : Prop :=
  ∀ s : State, faulted s = false →
    (HeaderFits .ip4 s → HeaderReadable .ip4 s →
      ∃ t, exec .extIp4 s = .next t ∧
        Extracted .extIp4
          (if ((headerOf .ip4 s).getD 6 0).getLsbD 5 then .unknown
            else ip4Dispatch s.cfg.wire ((headerOf .ip4 s).getD 9 0))
           (4 * (((headerOf .ip4 s).getD 0 0).extractLsb' 0 4).toNat) s t) ∧
    FaultsOutOfRange .extIp4 s

/-- 42_ip.md R125. -/
def Obligations.ExtIp6Extracts : Prop :=
  ∀ s : State, faulted s = false →
    (HeaderFits .ip6 s → HeaderReadable .ip6 s →
      ∃ t, exec .extIp6 s = .next t ∧
        Extracted .extIp6 (nhDispatch s.cfg.wire ((headerOf .ip6 s).getD 6 0)) 40 s t) ∧
    FaultsOutOfRange .extIp6 s

/-- 42_ip.md R126, R127, R128. -/
def Obligations.ExtIp6extExtracts : Prop :=
  ∀ s : State, faulted s = false →
    (HeaderFits .ip6ext s → HeaderReadable .ip6ext s →
      ∃ t, exec .extIp6ext s = .next t ∧
        Extracted .extIp6ext (nhDispatch s.cfg.wire ((headerOf .ip6ext s).getD 0 0))

          (if nhDispatch s.cfg.wire ((headerOf .ip6ext s).getD 0 0) = .ip6Frag then 8
            else 8 + 8 * ((headerOf .ip6ext s).getD 1 0).toNat) s t) ∧
    FaultsOutOfRange .extIp6ext s

/-- 43_transport.md R150. -/
def Obligations.ExtTcpExtracts : Prop :=
  ∀ s : State, faulted s = false →
    (HeaderFits .tcp s → HeaderReadable .tcp s →
      ∃ t, exec .extTcp s = .next t ∧
        Extracted .extTcp .none (4 * (((headerOf .tcp s).getD 12 0).extractLsb' 4 4).toNat) s t) ∧
    FaultsOutOfRange .extTcp s

/-- 43_transport.md R151. -/
def Obligations.ExtUdpExtracts : Prop :=
  ∀ s : State, faulted s = false →
    (HeaderFits .udp s → HeaderReadable .udp s →
      ∃ t, exec .extUdp s = .next t ∧
        Extracted .extUdp .none 8 s t) ∧
    FaultsOutOfRange .extUdp s

/-- 41_link_layer.md R101, R103 (and R105 for the last clause). -/
def Obligations.LinkDispatchTables : Prop :=
  (∀ e : Half, ethDispatch Wire.standard e =
      if e = 0x0800 then .ipv4 else if e = 0x8100 then .vlan else if e = 0x86DD then .ipv6 else .unknown) ∧
    (∀ e : Half, vlanDispatch Wire.standard e =
      if e = 0x0800 then .ipv4 else if e = 0x86DD then .ipv6 else .unknown) ∧
    vlanDispatch Wire.standard 0x8100 = .unknown

/-- 42_ip.md R120, R124. -/
def Obligations.NetworkDispatchTables : Prop :=
  (∀ b : Byte, ip4Dispatch Wire.standard b = if b = 6 then .tcp else if b = 17 then .udp else .unknown) ∧
    (∀ b : Byte, nhDispatch Wire.standard b =
      if b = 6 then .tcp else if b = 17 then .udp else if b = 0 then .ip6Hbh else if b = 43 then .ip6Routing
      else if b = 44 then .ip6Frag else if b = 59 then .none else if b = 60 then .ip6Dstopt else .unknown)

/-- 41_link_layer.md R101, R103, 42_ip.md R120, R124 for any configuration record of constants (92_eei_decisions.md D4; log entry 3). -/
def Obligations.DistinctWireConstantsSelectTheirRows : Prop :=
  ∀ w : Wire, w.wf = true →
    ethDispatch w w.etypeIpv4 = .ipv4 ∧ ethDispatch w w.etypeVlan = .vlan ∧ ethDispatch w w.etypeIpv6 = .ipv6 ∧
    vlanDispatch w w.etypeIpv4 = .ipv4 ∧ vlanDispatch w w.etypeIpv6 = .ipv6 ∧ vlanDispatch w w.etypeVlan = .unknown ∧
    ip4Dispatch w w.protoTcp = .tcp ∧ ip4Dispatch w w.protoUdp = .udp ∧
    nhDispatch w w.nhTcp = .tcp ∧ nhDispatch w w.nhUdp = .udp ∧ nhDispatch w w.nhHbh = .ip6Hbh ∧
    nhDispatch w w.nhRouting = .ip6Routing ∧ nhDispatch w w.nhFrag = .ip6Frag ∧ nhDispatch w w.nhNone = .none ∧
    nhDispatch w w.nhDstopt = .ip6Dstopt ∧
    (∀ e, e ∉ [w.etypeIpv4, w.etypeVlan, w.etypeIpv6] → ethDispatch w e = .unknown ∧ vlanDispatch w e = .unknown) ∧
    (∀ b, b ∉ [w.protoTcp, w.protoUdp] → ip4Dispatch w b = .unknown) ∧
    (∀ b, b ∉ [w.nhHbh, w.nhTcp, w.nhUdp, w.nhRouting, w.nhFrag, w.nhNone, w.nhDstopt] →
      nhDispatch w b = .unknown)

/-- 42_ip.md R127. -/
def Obligations.ExtensionLengthKeyedOnResolvedTag : Prop :=
  ∀ s : State, s.cfg.wire = Wire.standard → faulted s = false → HeaderFits .ip6ext s → HeaderReadable .ip6ext s →
    ∃ t, exec .extIp6ext s = .next t ∧
      ((headerOf .ip6ext s).getD 0 0 = 44 → resultLenField t = 8) ∧
      ((headerOf .ip6ext s).getD 0 0 ≠ 44 → resultLenField t = 8 + 8 * ((headerOf .ip6ext s).getD 1 0).toNat) ∧
      8 ≤ resultLenField t ∧ resultLenField t ≤ 2048 ∧ resultLenField t % 8 = 0

/-- 95_test_vectors.md V-INV-1, 90_conflicts.md C1 and C2, 30_encoding.md R76. -/
def Obligations.ConsumedLengthsAreNarrowedInvariant : Prop :=
  ∀ (i : Instr) (s t : State), isExtractor i = true → faulted s = false → HeaderFits (protoOf i) s →
    HeaderReadable (protoOf i) s → exec i s = .next t →
    (i = .extEth → resultLenField t = 14) ∧ (i ≠ .extEth → resultLenField t % 4 = 0) ∧ resultLenField t ≤ 2048 ∧
      (i ≠ .extIp4 → i ≠ .extTcp → 0 < resultLenField t)

/-- 41_link_layer.md R104, 42_ip.md R129, 43_transport.md R152; the codes as numbers stand in TagHasCode (30_encoding.md R75). -/
def Obligations.ExtractorsProduceOnlyTheirTags : Prop :=
  (∀ (i : Instr) (tags : List Tag),
      (i, tags) ∈ [(Instr.extEth, [Tag.ipv4, .vlan, .ipv6, .unknown]), (.extVlan, [.ipv4, .ipv6, .unknown]),
        (.extIp4, [.tcp, .udp, .unknown]),
        (.extIp6, [.tcp, .udp, .ip6Hbh, .ip6Routing, .ip6Frag, .none, .ip6Dstopt, .unknown]),
        (.extIp6ext, [.tcp, .udp, .ip6Hbh, .ip6Routing, .ip6Frag, .none, .ip6Dstopt, .unknown]),
        (.extTcp, [.none]), (.extUdp, [.none])] →
      ∀ s t : State, faulted s = false → HeaderFits (protoOf i) s → HeaderReadable (protoOf i) s →
        exec i s = .next t → ∃ tag ∈ tags, TagHasCode tag (t.result.extractLsb' 16 8)) ∧
    (∀ tag ∈ [Tag.tcp, .udp, .ip6Hbh, .ip6Routing, .ip6Frag, .none, .ip6Dstopt, .unknown],
      ∃ b : Byte, nhDispatch Wire.standard b = tag)

/-- 20_memory.md R52, 70_reset_and_hazards.md R231 for the resets. -/
def Obligations.NoHostActionWritesPacketMemory : Prop :=
  (∀ (a : HostAction) (s t : State), (∀ addr b, a ≠ .packetWriteStart addr b) → (∀ k, a ≠ .packetWriteDone k) →
      perform a s = .next t → ∀ x, packetByte t x = packetByte s x) ∧
    (∀ (i : Instr) (s t : State), exec i s = .next t → ∀ x, packetByte t x = packetByte s x)

/-- "no extractor writes OFFSET, BUF_LEN, BUF_BASE, FIT or packet memory" (41_link_layer.md), 10_state.md R27, R28, R29. -/
def Obligations.CommandsKeepTheHostsRegisters : Prop :=
  ∀ (i : Instr) (s t : State), exec i s = .next t →
    t.bufBase = s.bufBase ∧ t.bufLen = s.bufLen ∧ t.offset = s.offset ∧ t.cfg = s.cfg ∧
      t.resetLine = s.resetLine ∧ t.readData = s.readData ∧ t.inbox = s.inbox ∧
      (isExtractor i = true → t.fit = s.fit) ∧
      (isExtractor i = false → t.result = s.result ∧ t.hdr = s.hdr ∧ t.status = s.status ∧ t.faultCmd = s.faultCmd)

/-- "Written only by a completing EXT.* command" (10_state.md R28), "Written only by FIT.* commands" (R29), R31, "No command writes OFFSET" (R27). -/
def Obligations.OutputsChangeOnlyByTheirCommands : Prop :=
  ∀ s t : State, step s = .next t →
    (t.result ≠ s.result ∨ t.hdr ≠ s.hdr →
      (∃ i rest, isExtractor i = true ∧ s.inbox = .write 32 0x00 (encode i) :: rest ∧ faulted s = false ∧
        s.resetLine = false ∧ HeaderFits (protoOf i) s ∧ HeaderReadable (protoOf i) s) ∨
      (∃ rest, s.inbox = .resetAssert :: rest) ∨
      (∃ v rest, s.inbox = .write 32 0x08 v :: rest ∧ v.getLsbD 0 = true ∧ s.resetLine = false)) ∧
    (t.fit ≠ s.fit →
      (∃ i rest, isExtractor i = false ∧ s.inbox = .write 32 0x00 (encode i) :: rest ∧ faulted s = false ∧
        s.resetLine = false) ∨
      (∃ rest, s.inbox = .resetAssert :: rest) ∨
      (∃ v rest, s.inbox = .write 32 0x08 v :: rest ∧ v.getLsbD 0 = true ∧ s.resetLine = false)) ∧
    (t.offset ≠ s.offset →
      (∃ v rest, s.inbox = .write 32 0x14 v :: rest ∧ s.resetLine = false) ∨
      (∃ rest, s.inbox = .resetAssert :: rest) ∨
      (∃ v rest, s.inbox = .write 32 0x08 v :: rest ∧ v.getLsbD 0 = true ∧ s.resetLine = false))

/-- "The outputs of a command (FIT, or RESULT and HDR) are a function of the command word, BUF_BASE, BUF_LEN, OFFSET and the packet memory bytes alone" (10_state.md R35). -/
def Obligations.OutputsDependOnCommandInputsAlone : Prop :=
  ∀ (i : Instr) (s s' t t' : State), s.status = 0 → s'.status = 0 → s'.cfg = s.cfg → s'.bufBase = s.bufBase →
    s'.bufLen = s.bufLen → s'.offset = s.offset →
    Quiet s (s.bufBase.toNat + s.offset.toNat) (fixedSize (protoOf i)) →
    Quiet s' (s.bufBase.toNat + s.offset.toNat) (fixedSize (protoOf i)) →
    (∀ k, k < fixedSize (protoOf i) → packetByte s' (s.bufBase.toNat + s.offset.toNat + k) =
      packetByte s (s.bufBase.toNat + s.offset.toNat + k)) →
    exec i s = .next t → exec i s' = .next t' →
    t'.status = t.status ∧ t'.cmd = t.cmd ∧
      (isExtractor i = false → t'.fit = t.fit) ∧
      (isExtractor i = true → t.status = 0 → t'.result = t.result ∧ t'.hdr = t.hdr)

/-- "calling a fit-check or extractor twice with identical inputs and an unmutated buffer yields identical results" (10_state.md R35, W10). -/
def Obligations.RepeatingACommandChangesNothing : Prop :=
  ∀ (i : Instr) (s t : State), Quiet s (s.bufBase.toNat + s.offset.toNat) (fixedSize (protoOf i)) →
    exec i s = .next t → ∃ n, exec i t = .next { t with draws := n }

/-- 20_memory.md R53, R54, R55. What an unwritten byte holds is free, log entry 5. -/
def Obligations.SnapshotReadsPacketBytesInOrder : Prop :=
  ∀ (n : Nat) (s : State),
    (s.offset.toNat + n > s.bufLen.toNat → fetch n s = .error .oob) ∧
    (s.offset.toNat + n ≤ s.bufLen.toNat → s.bufBase.toNat + s.offset.toNat + n > s.cfg.pktMemBytes →
      fetch n s = .error .addrRange) ∧
    (s.offset.toNat + n ≤ s.bufLen.toNat → s.bufBase.toNat + s.offset.toNat + n ≤ s.cfg.pktMemBytes →
      ∃ h, fetch n s = .ok h ∧ h.length = n ∧
        (Quiet s (s.bufBase.toNat + s.offset.toNat) n →
          ∀ k, k < n → h.getD k 0 = packetByte s (s.bufBase.toNat + s.offset.toNat + k)))

/-- 20_memory.md R58; which of the values is a free choice, and more than one write to a byte is the model's reading, log entry 6. -/
def Obligations.RacedByteIsOldOrNew : Prop :=
  ∀ (s : State) (a n k : Nat), k < n →
    ((memRead s a n).getD k 0 = packetByte s (a + k) ∨ (a + k, (memRead s a n).getD k 0) ∈ s.inFlight) ∧
    ((∀ b, (a + k, b) ∉ s.inFlight) → (memRead s a n).getD k 0 = packetByte s (a + k))

/-- "A command reads every packet memory byte as it stands after every packet memory write that completed before" (20_memory.md R60). The two events of a write are the model's, log entry 6; that a reset leaves the writes in progress alone is log entry 12. -/
def Obligations.CompletedPacketWriteIsSeen : Prop :=
  (∀ (s : State) (k a : Nat) (b : Byte), s.inFlight[k]? = some (a, b) →
      ∃ t, perform (.packetWriteDone k) s = .next t ∧ packetByte t a = b ∧
        (∀ x, x ≠ a → packetByte t x = packetByte s x) ∧ t.inFlight = s.inFlight.eraseIdx k ∧
        t = { s with mem := t.mem, inFlight := t.inFlight }) ∧
    (∀ (x : HostAction) (s t : State), (∀ a b, x ≠ .packetWriteStart a b) → (∀ k, x ≠ .packetWriteDone k) →
      perform x s = .next t → t.inFlight = s.inFlight)

/-- 10_state.md R34, 20_memory.md R50; the stop is the model's choice, log entry 7. -/
def Obligations.PacketWriteOutsideMemoryStops : Prop :=
  ∀ (s : State) (a : Nat) (b : Byte),
    (a < s.cfg.pktMemBytes →
      perform (.packetWriteStart a b) s = .next { s with inFlight := s.inFlight ++ [(a, b)] }) ∧
    (s.cfg.pktMemBytes ≤ a → perform (.packetWriteStart a b) s = .fault (.packetAddressAbsent a))

/-- 10_state.md R21, R32, R36; readData is the model's field, log entry 10. -/
def Obligations.RegisterMapReads : Prop :=
  ∀ s : State,
    readOffset s 0x00 = s.cmd ∧ readOffset s 0x04 = s.status ∧ readOffset s 0x08 = 0 ∧
    readOffset s 0x0C = s.bufBase ∧ readOffset s 0x10 = s.bufLen ∧ readOffset s 0x14 = s.offset ∧
    readOffset s 0x18 = s.result ∧ readOffset s 0x1C = s.fit ∧ readOffset s 0x20 = s.faultCmd ∧
    (∀ off, (0x20 < off ∧ off < 0x40) ∨ 0x64 < off → readOffset s off = 0) ∧
    (∀ off, off % 4 = 0 → s.resetLine = false →
      perform (.read 32 off) s = .next { s with readData := some (readOffset s off) })

/-- 10_state.md R31. -/
def Obligations.HdrReadsPackBigEndian : Prop :=
  ∀ (s : State) (k : Fin 10) (j : Fin 4),
    (readOffset s (0x40 + 4 * k.val)).extractLsb' (24 - 8 * j.val) 8 = s.hdr[4 * k.val + j.val] ∧
      ∀ v, perform (.write 32 (0x40 + 4 * k.val) v) s = .next s

/-- 10_state.md R25, R26, R27 (their reset values are in ResetValues). -/
def Obligations.BufferRegisterWritesKeepTheirFields : Prop :=
  ∀ (s : State) (v : Word), s.resetLine = false →
    (∃ x : Word, x.toNat = v.toNat % 2 ^ s.cfg.pktAddrBits ∧ perform (wr .bufBase v) s = .next { s with bufBase := x }) ∧
    (∃ x : Word, x.toNat = v.toNat % 2 ^ s.cfg.offsetBits ∧ perform (wr .bufLen v) s = .next { s with bufLen := x }) ∧
    (∃ x : Word, x.toNat = v.toNat % 2 ^ s.cfg.offsetBits ∧ perform (wr .offset v) s = .next { s with offset := x })

/-- 10_state.md R32. -/
def Obligations.ReadOnlyAndUnmappedWritesAreIgnored : Prop :=
  (∀ (s : State) (off : Nat) (v : Word), off % 4 = 0 → off ∉ [0x00, 0x08, 0x0C, 0x10, 0x14] →
      perform (.write 32 off v) s = .next s) ∧
    (∀ (s : State) (off : Nat), off % 4 = 0 → (∀ r, registerOffset r ≠ off) → s.resetLine = false →
      perform (.read 32 off) s = .next { s with readData := some 0 }) ∧
    (∀ s : State, s.resetLine = false → perform (rd .ctrl) s = .next { s with readData := some 0 })

/-- 10_state.md R33. -/
def Obligations.AccessesOutsideTheInterfaceAreRefused : Prop :=
  ∀ (s : State) (bits off : Nat) (v : Word),
    ((bits ≠ 32 ∨ off % 4 ≠ 0) →
      (∃ r, perform (.write bits off v) s = .refused r) ∧ (∃ r, perform (.read bits off) s = .refused r)) ∧
    (bits = 32 → off % 4 = 0 → s.resetLine = false →
      (∃ t, perform (.write bits off v) s = .next t) ∧ (∃ t, perform (.read bits off) s = .next t))

/-- 70_reset_and_hazards.md R231, 10_state.md R24. -/
def Obligations.ResetValues : Prop :=
  BlockAtReset State.reset ∧
    (∀ s : State, ∃ t, perform .resetAssert s = .next t ∧ BlockAtReset t ∧ ∀ x, packetByte t x = packetByte s x) ∧
    (∀ (s : State) (v : Word), s.resetLine = false →
      (v.getLsbD 0 = true → ∃ t, perform (wr .ctrl v) s = .next t ∧ BlockAtReset t ∧
        ∀ x, packetByte t x = packetByte s x) ∧
      (v.getLsbD 0 = false → perform (wr .ctrl v) s = .next s))

/-- "while asserted the block accepts no register access" (70_reset_and_hazards.md R230); that such an access is dropped is the model's choice, log entry 9. -/
def Obligations.AssertedResetAcceptsNoAccess : Prop :=
  ∀ s : State,
    (∀ (off : Nat) (v : Word), s.resetLine = true → off % 4 = 0 → perform (.write 32 off v) s = .next s) ∧
    (∀ off : Nat, s.resetLine = true → off % 4 = 0 → perform (.read 32 off) s = .next { s with readData := none }) ∧
    perform .resetRelease s = .next { s with resetLine := false }

/-- "BUF_LEN = 0 after reset, every FIT.* gives FITS = 0 and every EXT.* faults with OOB; nothing is read" (70_reset_and_hazards.md R233). -/
def Obligations.EveryFitFailsAndEveryExtractFaultsAfterReset : Prop :=
  ∀ (s : State) (i : Instr), BlockAtReset s →
    ∃ t, exec i s = .next t ∧ (isExtractor i = false → fitsField t = false ∧ faulted t = false) ∧
      (isExtractor i = true → faulted t = true ∧ causeField t = 2)

/-- "None of them changes while the block runs" (10_state.md R37); log entry 2. -/
def Obligations.ParametersNeverChange : Prop :=
  ∀ s t : State, step s = .next t → t.cfg = s.cfg

/-- 70_reset_and_hazards.md R231, for the invariant of InvariantKeptByEveryStep. -/
def Obligations.InvariantHoldsAtReset : Prop :=
  Inv State.reset

/-- 10_state.md R22 to R30, R34, 30_encoding.md R75, R76, 60_exceptions.md R200 to R206, 70_reset_and_hazards.md R230, R231, from every state with the invariant, reached or not. -/
def Obligations.InvariantKeptByEveryStep : Prop :=
  ∀ s t : State, Inv s → step s = .next t → Inv t

/-- 44_parser_fsm.md R173. -/
def Obligations.NextStateTable : Prop :=
  nextState .none = .endNone ∧ nextState .unknown = .endUnknown ∧ nextState .ipv4 = .ipv4 ∧
    nextState .ipv6 = .ipv6 ∧ nextState .vlan = .vlan ∧ nextState .tcp = .tcp ∧ nextState .udp = .udp ∧
    nextState .ip6Hbh = .ipv6Ext ∧ nextState .ip6Routing = .ipv6Ext ∧ nextState .ip6Frag = .ipv6Ext ∧
    nextState .ip6Dstopt = .ipv6Ext

/-- 44_parser_fsm.md R176. -/
def Obligations.ParseEdgesAreExactlyTheTable : Prop :=
  ∀ S S' : ParseState,
    (∃ p s t tag, parseProto S = some p ∧ Inv s ∧ s.cfg.wire = Wire.standard ∧ faulted s = false ∧
      HeaderFits p s ∧ HeaderReadable p s ∧ exec (extractorOf p) s = .next t ∧ TagHasCode tag (t.result.extractLsb' 16 8) ∧
      nextState tag = S') ↔
    (S, S') ∈ [(ParseState.eth, ParseState.ipv4), (.eth, .vlan), (.eth, .ipv6), (.eth, .endUnknown),
      (.vlan, .ipv4), (.vlan, .ipv6), (.vlan, .endUnknown),
      (.ipv4, .tcp), (.ipv4, .udp), (.ipv4, .endUnknown),
      (.ipv6, .tcp), (.ipv6, .udp), (.ipv6, .ipv6Ext), (.ipv6, .endNone), (.ipv6, .endUnknown),
      (.ipv6Ext, .tcp), (.ipv6Ext, .udp), (.ipv6Ext, .ipv6Ext), (.ipv6Ext, .endNone), (.ipv6Ext, .endUnknown),
      (.tcp, .endNone), (.udp, .endNone)]

/-- 44_parser_fsm.md R174, 70_reset_and_hazards.md R237 duty 2. -/
def Obligations.TransitionFollowsTheExtractor : Prop :=
  ∀ (p : Proto) (off : Nat) (s : State), faulted s = false → s.resetLine = false → s.cfg.offsetBits ≤ 32 →
    (off < 2 ^ s.cfg.offsetBits → off + fixedSize p ≤ s.bufLen.toNat →
      s.bufBase.toNat + off + fixedSize p ≤ s.cfg.pktMemBytes →
      ∃ t tag len,
        exec (extractorOf p)
          { s with offset := BitVec.ofNat 32 off, cmd := encode (fitCheckOf p), fit := 1 } = .next t ∧
        Extracted (extractorOf p) tag len
          { s with offset := BitVec.ofNat 32 off, cmd := encode (fitCheckOf p), fit := 1 } t ∧
        transition p off s = .next (.moved (nextState tag) (off + len), t)) ∧
    (off < 2 ^ s.cfg.offsetBits → ¬off + fixedSize p ≤ s.bufLen.toNat →
      transition p off s = .next (.truncated,
        { s with offset := BitVec.ofNat 32 off, cmd := encode (fitCheckOf p), fit := 0 })) ∧
    (2 ^ s.cfg.offsetBits ≤ off → transition p off s = .next (.truncated, s))

/-- 44_parser_fsm.md R177: at most floor(BUF_LEN / 8) + 1 extension transitions and at most four others. The loop's bound on its transitions and the outcomes outOfFuel and noTag are the model's choice, log entry 11. -/
def Obligations.EveryParseEndsWithinItsBound : Prop :=
  ∀ (s : State) (S : ParseState) (off : Nat), Inv s → faulted s = false → s.resetLine = false → BufferInside s →
    ∃ e off' t, parse (s.bufLen.toNat / 8 + 5) S off s = .next (e, off', t) ∧
      (e = .endNone ∨ e = .endUnknown ∨ e = .truncated) ∧ off ≤ off' ∧ faulted t = false ∧
      t.bufBase = s.bufBase ∧ t.bufLen = s.bufLen

/-- "Offsets are byte offsets from the block's register base, which the platform places" (10_state.md R21, R37). That an address below the base is none of the block's is log entry 4. -/
def Obligations.RegistersStandAtTheRegisterBase : Prop :=
  ∀ c : Config,
    (∀ (r : Register) (v : Word), writeAt c 32 (registerAddress c r) v = some (wr r v) ∧
      readAt c 32 (registerAddress c r) = some (rd r)) ∧
    (∀ r r' : Register, registerAddress c r = registerAddress c r' → r = r') ∧
    (∀ (bits off : Nat) (v : Word), writeAt c bits (c.regBase + off) v = some (.write bits off v) ∧
      readAt c bits (c.regBase + off) = some (.read bits off)) ∧
    (∀ (bits addr : Nat) (v : Word), addr < c.regBase → writeAt c bits addr v = none ∧ readAt c bits addr = none)

/-- The host sends an offset (10_state.md R36), and the register base address is a parameter that no rule of the block's behaviour uses (R21, R37); log entry 4. -/
def Obligations.RegisterBaseNeverMattersToTheBlock : Prop :=
  ∀ (s : State) (base : Nat),
    step (placedAt base s) =
      match step s with
      | .next t => .next (placedAt base t)
      | .fault r => .fault r
      | .refused r => .refused r

/-- 30_encoding.md R75. -/
def Obligations.TagCodesAreTheTable : Prop :=
  (∀ (tag : Tag) (c : Byte),
      (tagCode tag = c ↔
        (tag, c) ∈ [(Tag.none, (0 : Byte)), (.unknown, 1), (.ipv4, 2), (.ipv6, 3), (.vlan, 4), (.tcp, 5), (.udp, 6),
          (.ip6Hbh, 7), (.ip6Routing, 8), (.ip6Frag, 9), (.ip6Dstopt, 10)]) ∧
      (tagOfCode c = some tag ↔ TagHasCode tag c)) ∧
    (∀ (i : Instr) (s t : State), exec i s = .next t → t.result ≠ s.result →
      (t.result.extractLsb' 16 8).toNat ≤ 10)
end

