-- ==== Sys2Proof/Laws/State.lean ====
section
/-! SUPPORT. One lemma per field per update of State, so that no proof unfolds an update. -/

namespace Sys2Proof.Machine

variable (s : State)

/-! ### raiseFault -/

@[simp] theorem raiseFault_cfg (c : Cause) (w : Word) : (raiseFault c w s).cfg = s.cfg := rfl
@[simp] theorem raiseFault_cmd (c : Cause) (w : Word) : (raiseFault c w s).cmd = w := rfl
@[simp] theorem raiseFault_status (c : Cause) (w : Word) : (raiseFault c w s).status = faultStatus c := rfl
@[simp] theorem raiseFault_bufBase (c : Cause) (w : Word) : (raiseFault c w s).bufBase = s.bufBase := rfl
@[simp] theorem raiseFault_bufLen (c : Cause) (w : Word) : (raiseFault c w s).bufLen = s.bufLen := rfl
@[simp] theorem raiseFault_offset (c : Cause) (w : Word) : (raiseFault c w s).offset = s.offset := rfl
@[simp] theorem raiseFault_result (c : Cause) (w : Word) : (raiseFault c w s).result = s.result := rfl
@[simp] theorem raiseFault_fit (c : Cause) (w : Word) : (raiseFault c w s).fit = s.fit := rfl
@[simp] theorem raiseFault_faultCmd (c : Cause) (w : Word) : (raiseFault c w s).faultCmd = w := rfl
@[simp] theorem raiseFault_hdr (c : Cause) (w : Word) : (raiseFault c w s).hdr = s.hdr := rfl
@[simp] theorem raiseFault_mem (c : Cause) (w : Word) : (raiseFault c w s).mem = s.mem := rfl
@[simp] theorem raiseFault_inFlight (c : Cause) (w : Word) : (raiseFault c w s).inFlight = s.inFlight := rfl
@[simp] theorem raiseFault_resetLine (c : Cause) (w : Word) : (raiseFault c w s).resetLine = s.resetLine := rfl
@[simp] theorem raiseFault_draws (c : Cause) (w : Word) : (raiseFault c w s).draws = s.draws := rfl
@[simp] theorem raiseFault_readData (c : Cause) (w : Word) : (raiseFault c w s).readData = s.readData := rfl
@[simp] theorem raiseFault_inbox (c : Cause) (w : Word) : (raiseFault c w s).inbox = s.inbox := rfl

/-! ### resetBlock -/

@[simp] theorem resetBlock_cfg : (resetBlock s).cfg = s.cfg := rfl
@[simp] theorem resetBlock_cmd : (resetBlock s).cmd = 0 := rfl
@[simp] theorem resetBlock_status : (resetBlock s).status = 0 := rfl
@[simp] theorem resetBlock_bufBase : (resetBlock s).bufBase = 0 := rfl
@[simp] theorem resetBlock_bufLen : (resetBlock s).bufLen = 0 := rfl
@[simp] theorem resetBlock_offset : (resetBlock s).offset = 0 := rfl
@[simp] theorem resetBlock_result : (resetBlock s).result = 0 := rfl
@[simp] theorem resetBlock_fit : (resetBlock s).fit = 0 := rfl
@[simp] theorem resetBlock_faultCmd : (resetBlock s).faultCmd = 0 := rfl
@[simp] theorem resetBlock_hdr : (resetBlock s).hdr = Vector.replicate 40 0 := rfl
@[simp] theorem resetBlock_mem : (resetBlock s).mem = s.mem := rfl
@[simp] theorem resetBlock_inFlight : (resetBlock s).inFlight = s.inFlight := rfl
@[simp] theorem resetBlock_resetLine : (resetBlock s).resetLine = s.resetLine := rfl
@[simp] theorem resetBlock_draws : (resetBlock s).draws = s.draws := rfl
@[simp] theorem resetBlock_readData : (resetBlock s).readData = s.readData := rfl
@[simp] theorem resetBlock_inbox : (resetBlock s).inbox = s.inbox := rfl

/-! ### completeFit -/

@[simp] theorem completeFit_cfg (w : Word) (b : Bool) : (completeFit w b s).cfg = s.cfg := rfl
@[simp] theorem completeFit_cmd (w : Word) (b : Bool) : (completeFit w b s).cmd = w := rfl
@[simp] theorem completeFit_status (w : Word) (b : Bool) : (completeFit w b s).status = s.status := rfl
@[simp] theorem completeFit_bufBase (w : Word) (b : Bool) : (completeFit w b s).bufBase = s.bufBase := rfl
@[simp] theorem completeFit_bufLen (w : Word) (b : Bool) : (completeFit w b s).bufLen = s.bufLen := rfl
@[simp] theorem completeFit_offset (w : Word) (b : Bool) : (completeFit w b s).offset = s.offset := rfl
@[simp] theorem completeFit_result (w : Word) (b : Bool) : (completeFit w b s).result = s.result := rfl
@[simp] theorem completeFit_fit (w : Word) (b : Bool) : (completeFit w b s).fit = fitWord b := rfl
@[simp] theorem completeFit_faultCmd (w : Word) (b : Bool) : (completeFit w b s).faultCmd = s.faultCmd := rfl
@[simp] theorem completeFit_hdr (w : Word) (b : Bool) : (completeFit w b s).hdr = s.hdr := rfl
@[simp] theorem completeFit_mem (w : Word) (b : Bool) : (completeFit w b s).mem = s.mem := rfl
@[simp] theorem completeFit_inFlight (w : Word) (b : Bool) : (completeFit w b s).inFlight = s.inFlight := rfl
@[simp] theorem completeFit_resetLine (w : Word) (b : Bool) : (completeFit w b s).resetLine = s.resetLine := rfl
@[simp] theorem completeFit_draws (w : Word) (b : Bool) : (completeFit w b s).draws = s.draws := rfl
@[simp] theorem completeFit_readData (w : Word) (b : Bool) : (completeFit w b s).readData = s.readData := rfl
@[simp] theorem completeFit_inbox (w : Word) (b : Bool) : (completeFit w b s).inbox = s.inbox := rfl

/-! ### completeExtract -/

@[simp] theorem completeExtract_cfg (w : Word) (t : Tag) (n : Nat) (h : List Byte) : (completeExtract w t n h s).cfg = s.cfg := rfl
@[simp] theorem completeExtract_cmd (w : Word) (t : Tag) (n : Nat) (h : List Byte) : (completeExtract w t n h s).cmd = w := rfl
@[simp] theorem completeExtract_status (w : Word) (t : Tag) (n : Nat) (h : List Byte) : (completeExtract w t n h s).status = s.status := rfl
@[simp] theorem completeExtract_bufBase (w : Word) (t : Tag) (n : Nat) (h : List Byte) : (completeExtract w t n h s).bufBase = s.bufBase := rfl
@[simp] theorem completeExtract_bufLen (w : Word) (t : Tag) (n : Nat) (h : List Byte) : (completeExtract w t n h s).bufLen = s.bufLen := rfl
@[simp] theorem completeExtract_offset (w : Word) (t : Tag) (n : Nat) (h : List Byte) : (completeExtract w t n h s).offset = s.offset := rfl
@[simp] theorem completeExtract_result (w : Word) (t : Tag) (n : Nat) (h : List Byte) : (completeExtract w t n h s).result = resultWord t n := rfl
@[simp] theorem completeExtract_fit (w : Word) (t : Tag) (n : Nat) (h : List Byte) : (completeExtract w t n h s).fit = s.fit := rfl
@[simp] theorem completeExtract_faultCmd (w : Word) (t : Tag) (n : Nat) (h : List Byte) : (completeExtract w t n h s).faultCmd = s.faultCmd := rfl
@[simp] theorem completeExtract_hdr (w : Word) (t : Tag) (n : Nat) (h : List Byte) : (completeExtract w t n h s).hdr = hdrImage h := rfl
@[simp] theorem completeExtract_mem (w : Word) (t : Tag) (n : Nat) (h : List Byte) : (completeExtract w t n h s).mem = s.mem := rfl
@[simp] theorem completeExtract_inFlight (w : Word) (t : Tag) (n : Nat) (h : List Byte) : (completeExtract w t n h s).inFlight = s.inFlight := rfl
@[simp] theorem completeExtract_resetLine (w : Word) (t : Tag) (n : Nat) (h : List Byte) : (completeExtract w t n h s).resetLine = s.resetLine := rfl
@[simp] theorem completeExtract_draws (w : Word) (t : Tag) (n : Nat) (h : List Byte) : (completeExtract w t n h s).draws = s.draws + 1 := rfl
@[simp] theorem completeExtract_readData (w : Word) (t : Tag) (n : Nat) (h : List Byte) : (completeExtract w t n h s).readData = s.readData := rfl
@[simp] theorem completeExtract_inbox (w : Word) (t : Tag) (n : Nat) (h : List Byte) : (completeExtract w t n h s).inbox = s.inbox := rfl

/-! ### assertReset -/

@[simp] theorem assertReset_cfg : (assertReset s).cfg = s.cfg := rfl
@[simp] theorem assertReset_cmd : (assertReset s).cmd = 0 := rfl
@[simp] theorem assertReset_status : (assertReset s).status = 0 := rfl
@[simp] theorem assertReset_bufBase : (assertReset s).bufBase = 0 := rfl
@[simp] theorem assertReset_bufLen : (assertReset s).bufLen = 0 := rfl
@[simp] theorem assertReset_offset : (assertReset s).offset = 0 := rfl
@[simp] theorem assertReset_result : (assertReset s).result = 0 := rfl
@[simp] theorem assertReset_fit : (assertReset s).fit = 0 := rfl
@[simp] theorem assertReset_faultCmd : (assertReset s).faultCmd = 0 := rfl
@[simp] theorem assertReset_hdr : (assertReset s).hdr = Vector.replicate 40 0 := rfl
@[simp] theorem assertReset_mem : (assertReset s).mem = s.mem := rfl
@[simp] theorem assertReset_inFlight : (assertReset s).inFlight = s.inFlight := rfl
@[simp] theorem assertReset_resetLine : (assertReset s).resetLine = true := rfl
@[simp] theorem assertReset_draws : (assertReset s).draws = s.draws := rfl
@[simp] theorem assertReset_readData : (assertReset s).readData = s.readData := rfl
@[simp] theorem assertReset_inbox : (assertReset s).inbox = s.inbox := rfl

/-! ### releaseReset -/

@[simp] theorem releaseReset_cfg : (releaseReset s).cfg = s.cfg := rfl
@[simp] theorem releaseReset_cmd : (releaseReset s).cmd = s.cmd := rfl
@[simp] theorem releaseReset_status : (releaseReset s).status = s.status := rfl
@[simp] theorem releaseReset_bufBase : (releaseReset s).bufBase = s.bufBase := rfl
@[simp] theorem releaseReset_bufLen : (releaseReset s).bufLen = s.bufLen := rfl
@[simp] theorem releaseReset_offset : (releaseReset s).offset = s.offset := rfl
@[simp] theorem releaseReset_result : (releaseReset s).result = s.result := rfl
@[simp] theorem releaseReset_fit : (releaseReset s).fit = s.fit := rfl
@[simp] theorem releaseReset_faultCmd : (releaseReset s).faultCmd = s.faultCmd := rfl
@[simp] theorem releaseReset_hdr : (releaseReset s).hdr = s.hdr := rfl
@[simp] theorem releaseReset_mem : (releaseReset s).mem = s.mem := rfl
@[simp] theorem releaseReset_inFlight : (releaseReset s).inFlight = s.inFlight := rfl
@[simp] theorem releaseReset_resetLine : (releaseReset s).resetLine = false := rfl
@[simp] theorem releaseReset_draws : (releaseReset s).draws = s.draws := rfl
@[simp] theorem releaseReset_readData : (releaseReset s).readData = s.readData := rfl
@[simp] theorem releaseReset_inbox : (releaseReset s).inbox = s.inbox := rfl

/-! ### withCommandNext -/

@[simp] theorem withCommandNext_cfg (w : Word) : (withCommandNext s w).cfg = s.cfg := rfl
@[simp] theorem withCommandNext_cmd (w : Word) : (withCommandNext s w).cmd = s.cmd := rfl
@[simp] theorem withCommandNext_status (w : Word) : (withCommandNext s w).status = s.status := rfl
@[simp] theorem withCommandNext_bufBase (w : Word) : (withCommandNext s w).bufBase = s.bufBase := rfl
@[simp] theorem withCommandNext_bufLen (w : Word) : (withCommandNext s w).bufLen = s.bufLen := rfl
@[simp] theorem withCommandNext_offset (w : Word) : (withCommandNext s w).offset = s.offset := rfl
@[simp] theorem withCommandNext_result (w : Word) : (withCommandNext s w).result = s.result := rfl
@[simp] theorem withCommandNext_fit (w : Word) : (withCommandNext s w).fit = s.fit := rfl
@[simp] theorem withCommandNext_faultCmd (w : Word) : (withCommandNext s w).faultCmd = s.faultCmd := rfl
@[simp] theorem withCommandNext_hdr (w : Word) : (withCommandNext s w).hdr = s.hdr := rfl
@[simp] theorem withCommandNext_mem (w : Word) : (withCommandNext s w).mem = s.mem := rfl
@[simp] theorem withCommandNext_inFlight (w : Word) : (withCommandNext s w).inFlight = s.inFlight := rfl
@[simp] theorem withCommandNext_resetLine (w : Word) : (withCommandNext s w).resetLine = false := rfl
@[simp] theorem withCommandNext_draws (w : Word) : (withCommandNext s w).draws = s.draws := rfl
@[simp] theorem withCommandNext_readData (w : Word) : (withCommandNext s w).readData = s.readData := rfl
@[simp] theorem withCommandNext_inbox (w : Word) : (withCommandNext s w).inbox = wr .cmd w :: s.inbox := rfl

/-! ### faultEntered -/

@[simp] theorem faultEntered_cfg (st w : Word) : (faultEntered st w s).cfg = s.cfg := rfl
@[simp] theorem faultEntered_cmd (st w : Word) : (faultEntered st w s).cmd = w := rfl
@[simp] theorem faultEntered_status (st w : Word) : (faultEntered st w s).status = st := rfl
@[simp] theorem faultEntered_bufBase (st w : Word) : (faultEntered st w s).bufBase = s.bufBase := rfl
@[simp] theorem faultEntered_bufLen (st w : Word) : (faultEntered st w s).bufLen = s.bufLen := rfl
@[simp] theorem faultEntered_offset (st w : Word) : (faultEntered st w s).offset = s.offset := rfl
@[simp] theorem faultEntered_result (st w : Word) : (faultEntered st w s).result = s.result := rfl
@[simp] theorem faultEntered_fit (st w : Word) : (faultEntered st w s).fit = s.fit := rfl
@[simp] theorem faultEntered_faultCmd (st w : Word) : (faultEntered st w s).faultCmd = w := rfl
@[simp] theorem faultEntered_hdr (st w : Word) : (faultEntered st w s).hdr = s.hdr := rfl
@[simp] theorem faultEntered_mem (st w : Word) : (faultEntered st w s).mem = s.mem := rfl
@[simp] theorem faultEntered_inFlight (st w : Word) : (faultEntered st w s).inFlight = s.inFlight := rfl
@[simp] theorem faultEntered_resetLine (st w : Word) : (faultEntered st w s).resetLine = s.resetLine := rfl
@[simp] theorem faultEntered_draws (st w : Word) : (faultEntered st w s).draws = s.draws := rfl
@[simp] theorem faultEntered_readData (st w : Word) : (faultEntered st w s).readData = s.readData := rfl
@[simp] theorem faultEntered_inbox (st w : Word) : (faultEntered st w s).inbox = s.inbox := rfl

/-! ### placedAt -/

@[simp] theorem placedAt_cfg (b : Nat) : (placedAt b s).cfg = { s.cfg with regBase := b } := rfl
@[simp] theorem placedAt_cmd (b : Nat) : (placedAt b s).cmd = s.cmd := rfl
@[simp] theorem placedAt_status (b : Nat) : (placedAt b s).status = s.status := rfl
@[simp] theorem placedAt_bufBase (b : Nat) : (placedAt b s).bufBase = s.bufBase := rfl
@[simp] theorem placedAt_bufLen (b : Nat) : (placedAt b s).bufLen = s.bufLen := rfl
@[simp] theorem placedAt_offset (b : Nat) : (placedAt b s).offset = s.offset := rfl
@[simp] theorem placedAt_result (b : Nat) : (placedAt b s).result = s.result := rfl
@[simp] theorem placedAt_fit (b : Nat) : (placedAt b s).fit = s.fit := rfl
@[simp] theorem placedAt_faultCmd (b : Nat) : (placedAt b s).faultCmd = s.faultCmd := rfl
@[simp] theorem placedAt_hdr (b : Nat) : (placedAt b s).hdr = s.hdr := rfl
@[simp] theorem placedAt_mem (b : Nat) : (placedAt b s).mem = s.mem := rfl
@[simp] theorem placedAt_inFlight (b : Nat) : (placedAt b s).inFlight = s.inFlight := rfl
@[simp] theorem placedAt_resetLine (b : Nat) : (placedAt b s).resetLine = s.resetLine := rfl
@[simp] theorem placedAt_draws (b : Nat) : (placedAt b s).draws = s.draws := rfl
@[simp] theorem placedAt_readData (b : Nat) : (placedAt b s).readData = s.readData := rfl
@[simp] theorem placedAt_inbox (b : Nat) : (placedAt b s).inbox = s.inbox := rfl

/-! ### The flags after an update -/

@[simp] theorem faulted_raiseFault (c : Cause) (w : Word) : faulted (raiseFault c w s) = true := by
  show (faultStatus c).getLsbD 0 = true
  cases c <;> decide

@[simp] theorem faulted_resetBlock : faulted (resetBlock s) = false := by
  show (0 : Word).getLsbD 0 = false
  decide

@[simp] theorem faulted_assertReset : faulted (assertReset s) = false := faulted_resetBlock s

@[simp] theorem faulted_completeFit (w : Word) (b : Bool) : faulted (completeFit w b s) = faulted s := rfl

@[simp] theorem faulted_completeExtract (w : Word) (t : Tag) (n : Nat) (h : List Byte) :
    faulted (completeExtract w t n h s) = faulted s := rfl

@[simp] theorem causeField_raiseFault (c : Cause) (w : Word) : causeField (raiseFault c w s) = causeCode c := by
  show (faultStatus c).extractLsb' 4 4 = causeCode c
  cases c <;> decide

/-- Entering the fault state writes the STATUS word of the cause (10_state.md R23). -/
theorem raiseFault_eq_faultEntered (c : Cause) (w : Word) : raiseFault c w s = faultEntered (faultStatus c) w s := rfl

theorem faultStatus_illegalCmd : faultStatus .illegalCmd = 0x00000011 := by decide

theorem faultStatus_oob : faultStatus .oob = 0x00000021 := by decide

theorem faultStatus_addrRange : faultStatus .addrRange = 0x00000031 := by decide

end Sys2Proof.Machine
end

