-- ==== Sys2Proof/Laws/Memory.lean ====
section
/-! SUPPORT. Packet memory: read after write, every operation keeps the canonical form, and a snapshot of quiet bytes. -/

namespace Sys2Proof.Machine

/-- Reading back the byte just written. -/
theorem Memory.read?_write_self (m : Memory) (a : Nat) (b : Byte) :
    Memory.read? (Memory.write m a b) a = some b := by
  induction m with
  | nil => simp [Memory.write, Memory.read?]
  | cons c m ih =>
    unfold Memory.write
    split
    · simp [Memory.read?]
    · split
      · simp [Memory.read?]
      · rename_i h
        simp [Memory.read?, Ne.symm h, ih]

/-- A write leaves every other address alone. -/
theorem Memory.read?_write_other (m : Memory) {a x : Nat} (b : Byte) (h : x ≠ a) :
    Memory.read? (Memory.write m a b) x = Memory.read? m x := by
  induction m with
  | nil => simp [Memory.write, Memory.read?, Ne.symm h]
  | cons c m ih =>
    unfold Memory.write
    split
    · simp [Memory.read?, Ne.symm h]
    · split
      · rename_i hc
        simp [Memory.read?, Ne.symm h, ← hc]
      · simp [Memory.read?, ih]

/-- Every address of a memory written to is an old one or the new one. -/
theorem Memory.mem_write {m : Memory} {a : Nat} {b : Byte} {c : Host.Cell} (h : c ∈ Memory.write m a b) :
    c ∈ m ∨ c = (a, b) := by
  induction m with
  | nil => simpa [Memory.write] using h
  | cons d m ih =>
    unfold Memory.write at h
    split at h
    · simpa [or_comm] using h
    · split at h
      · rcases List.mem_cons.1 h with h | h
        · exact .inr h
        · exact .inl (List.mem_cons_of_mem _ h)
      · rcases List.mem_cons.1 h with h | h
        · exact .inl (h ▸ List.mem_cons_self)
        · exact (ih h).imp (List.mem_cons_of_mem _) id

/-- The canonical form, said of the whole list at once. -/
theorem Memory.wf_iff_pairwise (m : Memory) : Memory.wf m = true ↔ m.Pairwise (fun c d => c.1 < d.1) := by
  induction m with
  | nil => simp [Memory.wf]
  | cons c m ih =>
    cases m with
    | nil => simp [Memory.wf]
    | cons d m =>
      simp only [Memory.wf, Bool.and_eq_true, decide_eq_true_eq, ih, List.pairwise_cons (a := c)]
      constructor
      · rintro ⟨h, hm⟩
        refine ⟨fun e he => ?_, hm⟩
        rcases List.mem_cons.1 he with rfl | he
        · exact h
        · exact Nat.lt_trans h ((List.pairwise_cons.1 hm).1 e he)
      · rintro ⟨h, hm⟩
        exact ⟨h d List.mem_cons_self, hm⟩

/-- A write keeps the canonical form. -/
theorem Memory.write_wf {m : Memory} (a : Nat) (b : Byte) (h : Memory.wf m = true) :
    Memory.wf (Memory.write m a b) = true := by
  rw [Memory.wf_iff_pairwise] at h ⊢
  induction m with
  | nil => simp [Memory.write]
  | cons c m ih =>
    obtain ⟨hc, hm⟩ := List.pairwise_cons.1 h
    unfold Memory.write
    split
    · rename_i hlt
      refine List.pairwise_cons.2 ⟨fun d hd => ?_, h⟩
      rcases List.mem_cons.1 hd with rfl | hd
      · exact hlt
      · exact Nat.lt_trans hlt (hc d hd)
    · split
      · rename_i heq
        exact List.pairwise_cons.2 ⟨fun d hd => heq ▸ hc d hd, hm⟩
      · rename_i hlt hne
        refine List.pairwise_cons.2 ⟨fun d hd => ?_, ih hm⟩
        rcases Memory.mem_write hd with hd | rfl
        · exact hc d hd
        · simp only; omega

/-- The reset state's memory is canonical. -/
theorem reset_mem_wf : Memory.wf State.reset.mem = true := rfl

@[simp] theorem memRead_length (s : State) (a n : Nat) : (memRead s a n).length = n := by simp [memRead]

/-- Byte `i` of a snapshot is the sample taken at its address. -/
theorem memRead_getD (s : State) (a : Nat) {n i : Nat} (h : i < n) :
    (memRead s a n).getD i 0 = sampledByte s (a + i) := by
  simp [memRead, List.getD_eq_getElem?_getD, List.getElem?_map, List.getElem?_range h]

/-- With no write to it in progress, the sample of a byte is what packet memory holds. -/
theorem sampledByte_quiet {s : State} {a : Nat} (h : ∀ c ∈ s.inFlight, c.1 ≠ a) :
    sampledByte s a = packetByte s a := by
  have hr : racingBytes s a = [] := by
    simp only [racingBytes, List.map_eq_nil_iff, List.filter_eq_nil_iff, beq_iff_eq]
    exact h
  simp [sampledByte, hr]

/-- A sample is the held byte or the byte of a write to that address in progress (20_memory.md R58). -/
theorem sampledByte_cases (s : State) (a : Nat) :
    sampledByte s a = packetByte s a ∨ sampledByte s a ∈ racingBytes s a := by
  unfold sampledByte
  split
  · exact .inl rfl
  · rename_i b rest h
    have hlt : Config.raceChoice s.draws a % (rest.length + 2) < (packetByte s a :: b :: rest).length :=
      Nat.mod_lt _ (by omega)
    rw [List.getD_eq_getElem _ _ hlt, h]
    exact List.mem_cons.1 (List.getElem_mem hlt)

/-- The racing bytes are those of the writes in progress to that address (20_memory.md R58). -/
theorem mem_racingBytes {s : State} {a : Nat} {b : Byte} : b ∈ racingBytes s a ↔ (a, b) ∈ s.inFlight := by
  simp only [racingBytes, List.mem_map, List.mem_filter, beq_iff_eq]
  constructor
  · rintro ⟨c, ⟨hc, rfl⟩, rfl⟩; exact hc
  · exact fun h => ⟨(a, b), ⟨h, rfl⟩, rfl⟩

/-- Packet memory reads the same where neither memory nor its bytes changed. -/
theorem packetByte_congr {s t : State} (h : t.mem = s.mem) (a : Nat) : packetByte t a = packetByte s a := by
  simp [packetByte, h]

/-- A snapshot depends on packet memory, the writes in progress and the number of the draw alone. -/
theorem memRead_congr {s t : State} (hm : t.mem = s.mem) (hi : t.inFlight = s.inFlight) (hd : t.draws = s.draws)
    (a n : Nat) : memRead t a n = memRead s a n := by
  simp [memRead, sampledByte, racingBytes, packetByte, hm, hi, hd]

end Sys2Proof.Machine
end

