-- ==== Sys2Proof/Laws/Ops.lean ====
section
/-! SUPPORT. What each shared operation can do, said once: the flag and result words, `Fetch`, `HdrWrite`, the frame of a
fit check and of an extractor, and every command as one of the two. -/

namespace Sys2Proof.Machine

/-! ### Words and fields -/

@[simp] theorem resultWord_reserved (t : Tag) (n : Nat) : (resultWord t n).extractLsb' 24 8 = 0 := by
  ext i hi
  simp only [resultWord, BitVec.getElem_extractLsb', BitVec.getLsbD_append]
  rw [if_neg (by omega), if_neg (by omega)]
  simp

@[simp] theorem resultWord_tag (t : Tag) (n : Nat) : (resultWord t n).extractLsb' 16 8 = tagCode t := by
  ext i hi
  simp only [resultWord, BitVec.getElem_extractLsb', BitVec.getLsbD_append]
  rw [if_neg (by omega), if_pos (by omega), show 16 + i - 16 = i by omega, BitVec.getLsbD_eq_getElem]

/-- A length of at most 16 bits stands in RESULT.LEN exactly (30_encoding.md R76). -/
theorem resultWord_len (t : Tag) {n : Nat} (h : n < 65536) : ((resultWord t n).extractLsb' 0 16).toNat = n := by
  have : (resultWord t n).extractLsb' 0 16 = BitVec.ofNat 16 n := by
    ext i hi
    simp only [resultWord, BitVec.getElem_extractLsb', BitVec.getLsbD_append]
    rw [if_pos (by omega), Nat.zero_add, BitVec.getLsbD_eq_getElem]
  rw [this, BitVec.toNat_ofNat]
  exact Nat.mod_eq_of_lt h

theorem fitWord_eq (b : Bool) : fitWord b = if b then 1 else 0 := by cases b <;> decide

@[simp] theorem fitsField_completeFit (w : Word) (b : Bool) (s : State) : fitsField (completeFit w b s) = b := by
  show (fitWord b).getLsbD 0 = b
  cases b <;> decide

/-- The codes of the tags are told apart (30_encoding.md R75). -/
@[simp] theorem tagOfCode_tagCode (t : Tag) : tagOfCode (tagCode t) = some t := by cases t <;> decide

/-- The model's codes are the table of 30_encoding.md R75. -/
theorem tagHasCode_iff {t : Tag} {c : Byte} : TagHasCode t c ↔ tagCode t = c := by
  revert c
  cases t <;> decide

/-- No command produces a code above 10 (30_encoding.md R75). -/
theorem tagCode_le (t : Tag) : (tagCode t).toNat ≤ 10 := by cases t <;> decide

/-- Bits above the width of a register field are discarded (10_state.md R25 to R27). -/
theorem lowBits_toNat (bits : Nat) (v : Word) : (lowBits bits v).toNat = v.toNat % 2 ^ bits := by
  have h : v.toNat % 2 ^ bits < 2 ^ 32 := Nat.lt_of_le_of_lt (Nat.mod_le _ _) v.isLt
  rw [lowBits, BitVec.toNat_ofNat, Nat.mod_eq_of_lt h]

theorem ip4Ihl_le (h : List Byte) : ip4Ihl h ≤ 15 := by
  have := ((byteAt h 0).extractLsb' 0 4).isLt
  simp only [ip4Ihl]; omega

theorem tcpDataOffset_le (h : List Byte) : tcpDataOffset h ≤ 15 := by
  have := ((byteAt h 12).extractLsb' 4 4).isLt
  simp only [tcpDataOffset]; omega

/-- An extension header's consumed length is 8 to 2048, a multiple of 8 (42_ip.md R127). -/
theorem extLength_bounds (t : Tag) (h : List Byte) :
    8 ≤ extLength t h ∧ extLength t h ≤ 2048 ∧ extLength t h % 8 = 0 := by
  have := (byteAt h 1).isLt
  unfold extLength fragHdrSize extLengthField
  split <;> omega

/-! ### Fetch and HdrWrite -/

/-- Byte `k` of the window after `HdrWrite` (20_memory.md R56). -/
theorem hdrImage_getElem (h : List Byte) (k : Fin 40) : (hdrImage h)[k] = h.getD k.val 0 := by
  simp [hdrImage]

/-- The window after an extractor has fetched `n` bytes: they, then zeros (20_memory.md R56). -/
theorem hdrImage_memRead (s : State) (a n : Nat) (k : Fin 40) :
    (hdrImage (memRead s a n))[k] = if k.val < n then sampledByte s (a + k.val) else 0 := by
  rw [hdrImage_getElem]
  split
  · rename_i h; exact memRead_getD s a h
  · rename_i h
    exact List.getD_eq_default _ _ (by simpa using h)

/-- `Fetch` reports OOB exactly when the header does not fit (20_memory.md R55). -/
theorem fetch_oob_iff (n : Nat) (s : State) : fetch n s = .error .oob ↔ ¬s.offset.toNat + n ≤ s.bufLen.toNat := by
  unfold fetch offsetOperand bufLenOperand
  split
  · simp; omega
  · split <;> simp <;> omega

/-- `Fetch` reports ADDR_RANGE exactly when the header fits and is not readable (20_memory.md R55). -/
theorem fetch_addrRange_iff (n : Nat) (s : State) : fetch n s = .error .addrRange ↔
    s.offset.toNat + n ≤ s.bufLen.toNat ∧ ¬s.bufBase.toNat + s.offset.toNat + n ≤ s.cfg.pktMemBytes := by
  unfold fetch headerAddress bufBaseOperand offsetOperand bufLenOperand
  split
  · simp; omega
  · split <;> simp <;> omega

/-- `Fetch` never reports an illegal command. -/
theorem fetch_ne_illegalCmd (n : Nat) (s : State) : fetch n s ≠ .error .illegalCmd := by
  unfold fetch
  split
  · simp
  · split <;> simp

/-- `Fetch` reads its bytes when both checks pass (20_memory.md R55). -/
theorem fetch_ok {n : Nat} {s : State} (h1 : s.offset.toNat + n ≤ s.bufLen.toNat)
    (h2 : s.bufBase.toNat + s.offset.toNat + n ≤ s.cfg.pktMemBytes) :
    fetch n s = .ok (memRead s (s.bufBase.toNat + s.offset.toNat) n) := by
  unfold fetch headerAddress bufBaseOperand offsetOperand bufLenOperand
  rw [if_neg (by omega), if_neg (by omega)]

/-- What `Fetch` can answer: bytes, with both checks passed, or one of two causes (20_memory.md R55). -/
theorem fetch_cases (n : Nat) (s : State) :
    (s.offset.toNat + n ≤ s.bufLen.toNat ∧ s.bufBase.toNat + s.offset.toNat + n ≤ s.cfg.pktMemBytes ∧
        fetch n s = .ok (memRead s (s.bufBase.toNat + s.offset.toNat) n)) ∨
      (¬s.offset.toNat + n ≤ s.bufLen.toNat ∧ fetch n s = .error .oob) ∨
      (s.offset.toNat + n ≤ s.bufLen.toNat ∧ ¬s.bufBase.toNat + s.offset.toNat + n ≤ s.cfg.pktMemBytes ∧
        fetch n s = .error .addrRange) := by
  by_cases h1 : s.offset.toNat + n ≤ s.bufLen.toNat
  · by_cases h2 : s.bufBase.toNat + s.offset.toNat + n ≤ s.cfg.pktMemBytes
    · exact .inl ⟨h1, h2, fetch_ok h1 h2⟩
    · exact .inr (.inr ⟨h1, h2, (fetch_addrRange_iff n s).2 ⟨h1, h2⟩⟩)
  · exact .inr (.inl ⟨h1, (fetch_oob_iff n s).2 h1⟩)

/-! ### The frames of the commands -/

theorem issue_faulted {s t : State} (h : faulted s = true) : issue s t = .next s := by simp [issue, h]

theorem issue_running {s t : State} (h : faulted s = false) : issue s t = .next t := by simp [issue, h]

theorem fitCheck_running {s : State} (w : Word) (n : Nat) (h : faulted s = false) :
    fitCheck w n s = .next (completeFit w (fits s.offset.toNat n s.bufLen.toNat) s) := issue_running h

theorem fitCheck_faulted {s : State} (w : Word) (n : Nat) (h : faulted s = true) : fitCheck w n s = .next s :=
  issue_faulted h

theorem extract_faulted {s : State} (w : Word) (n : Nat) (r : List Byte → Tag × Nat) (h : faulted s = true) :
    extract w n r s = .next s := issue_faulted h

/-- An extractor whose header fits and is readable completes. -/
theorem extract_completes {s : State} (w : Word) {n : Nat} (r : List Byte → Tag × Nat) (h : faulted s = false)
    (h1 : s.offset.toNat + n ≤ s.bufLen.toNat)
    (h2 : s.bufBase.toNat + s.offset.toNat + n ≤ s.cfg.pktMemBytes) :
    extract w n r s = .next (completeExtract w (r (memRead s (s.bufBase.toNat + s.offset.toNat) n)).1
      (r (memRead s (s.bufBase.toNat + s.offset.toNat) n)).2 (memRead s (s.bufBase.toNat + s.offset.toNat) n) s) := by
  rw [extract, issue_running h, fetch_ok h1 h2]

theorem extract_oob {s : State} (w : Word) {n : Nat} (r : List Byte → Tag × Nat) (h : faulted s = false)
    (h1 : ¬s.offset.toNat + n ≤ s.bufLen.toNat) : extract w n r s = .next (raiseFault .oob w s) := by
  rw [extract, issue_running h, (fetch_oob_iff n s).2 h1]

theorem extract_addrRange {s : State} (w : Word) {n : Nat} (r : List Byte → Tag × Nat) (h : faulted s = false)
    (h1 : s.offset.toNat + n ≤ s.bufLen.toNat)
    (h2 : ¬s.bufBase.toNat + s.offset.toNat + n ≤ s.cfg.pktMemBytes) :
    extract w n r s = .next (raiseFault .addrRange w s) := by
  rw [extract, issue_running h, (fetch_addrRange_iff n s).2 ⟨h1, h2⟩]

/-- Every extractor's consumed length is at most 2048 (30_encoding.md R76). -/
def ShortRule (r : List Byte → Tag × Nat) : Prop := ∀ h, (r h).2 ≤ 2048

/-- Every command is a fit check of its protocol's fixed size or an extraction of it. -/
theorem exec_shape (i : Instr) (s : State) :
    (isExtractor i = false ∧ exec i s = fitCheck (encode i) (fixedSize (protoOf i)) s) ∨
      (isExtractor i = true ∧
        ∃ r, ShortRule r ∧ exec i s = extract (encode i) (fixedSize (protoOf i)) r s) := by
  cases i
  case fitEth | fitVlan | fitIp4 | fitIp6 | fitIp6ext | fitTcp | fitUdp => exact .inl ⟨rfl, rfl⟩
  all_goals refine .inr ⟨rfl, _, ?_, rfl⟩
  all_goals intro h
  case extEth | extVlan | extIp6 | extUdp => simp only [fixedSize]; omega
  case extIp4 => have := ip4Ihl_le h; simp only; omega
  case extTcp => have := tcpDataOffset_le h; simp only; omega
  case extIp6ext => exact (extLength_bounds _ h).2.1

/-- In the fault state a command has no effect at all (60_exceptions.md R206). -/
theorem exec_faulted (i : Instr) {s : State} (h : faulted s = true) : exec i s = .next s := by
  rcases exec_shape i s with ⟨_, e⟩ | ⟨_, r, _, e⟩ <;> rw [e]
  · exact fitCheck_faulted _ _ h
  · exact extract_faulted _ _ _ h

/-- What a command can do: nothing (in the fault state), a fit check's answer, the completion of an extraction, or the
entry into the fault state with OOB or ADDR_RANGE. -/
theorem exec_cases {i : Instr} {s t : State} (h : exec i s = .next t) :
    (faulted s = true ∧ t = s) ∨
      (faulted s = false ∧ isExtractor i = false ∧
        t = completeFit (encode i) (fits s.offset.toNat (fixedSize (protoOf i)) s.bufLen.toNat) s) ∨
      (faulted s = false ∧ isExtractor i = true ∧ HeaderFits (protoOf i) s ∧ HeaderReadable (protoOf i) s ∧
        ∃ tag len, len ≤ 2048 ∧ t = completeExtract (encode i) tag len (headerOf (protoOf i) s) s) ∨
      (faulted s = false ∧ isExtractor i = true ∧ ¬HeaderFits (protoOf i) s ∧ t = raiseFault .oob (encode i) s) ∨
      (faulted s = false ∧ isExtractor i = true ∧ HeaderFits (protoOf i) s ∧ ¬HeaderReadable (protoOf i) s ∧
        t = raiseFault .addrRange (encode i) s) := by
  by_cases hf : faulted s = true
  · rw [exec_faulted i hf] at h
    exact .inl ⟨hf, by injection h with h; exact h.symm⟩
  · rw [Bool.not_eq_true] at hf
    rcases exec_shape i s with ⟨hx, e⟩ | ⟨hx, r, hr, e⟩ <;> rw [e] at h
    · rw [fitCheck_running _ _ hf] at h
      exact .inr (.inl ⟨hf, hx, by injection h with h; exact h.symm⟩)
    · by_cases h1 : HeaderFits (protoOf i) s
      · by_cases h2 : HeaderReadable (protoOf i) s
        · rw [extract_completes _ _ hf h1 h2] at h
          injection h with h
          exact .inr (.inr (.inl ⟨hf, hx, h1, h2, _, _, hr _, h.symm⟩))
        · rw [extract_addrRange _ _ hf h1 h2] at h
          injection h with h
          exact .inr (.inr (.inr (.inr ⟨hf, hx, h1, h2, h.symm⟩)))
      · rw [extract_oob _ _ hf h1] at h
        injection h with h
        exact .inr (.inr (.inr (.inl ⟨hf, hx, h1, h.symm⟩)))

/-- Every command answers a next state: no command of the table stops. -/
theorem exec_next (i : Instr) (s : State) : ∃ t, exec i s = .next t := by
  rcases exec_shape i s with ⟨_, e⟩ | ⟨_, r, _, e⟩ <;> exact ⟨_, e⟩

/-- A completed extraction, field by field. -/
theorem completeExtract_extracted {i : Instr} {tag : Tag} {len : Nat} (s : State) (hl : len ≤ 2048) :
    Extracted i tag len s (completeExtract (encode i) tag len (headerOf (protoOf i) s) s) where
  frame := rfl
  memory a := packetByte_congr rfl a
  reserved := resultWord_reserved tag len
  tag := tagHasCode_iff.2 (resultWord_tag tag len).symm
  len := resultWord_len tag (by omega)
  window k := hdrImage_memRead s _ _ k

end Sys2Proof.Machine
end

