-- ==== Sys2Proof/Laws/Host.lean ====
section
/-! SUPPORT. What each action of an agent around the block can do, said once. -/

namespace Sys2Proof.Machine

/-- Reading a register's own offset finds the register (10_state.md R21). -/
@[simp] theorem registerAt_registerOffset (r : Register) : registerAt (registerOffset r) = some r := by
  cases r with
  | hdr k => revert k; decide
  | _ => rfl

/-- The accesses of the host notation lie inside the interface (10_state.md R33). -/
theorem registerOffset_aligned (r : Register) : registerOffset r % 4 = 0 := by
  cases r with
  | hdr k => simp only [registerOffset]; omega
  | _ => rfl

/-- A register's offset names it and no other (10_state.md R21). -/
theorem registerOffset_inj {r r' : Register} (h : registerOffset r = registerOffset r') : r = r' := by
  have := congrArg registerAt h
  rwa [registerAt_registerOffset, registerAt_registerOffset, Option.some.injEq] at this

/-- The block sees an address at or above the register base as its offset from it, and no other address
(10_state.md R21). -/
theorem offsetOfAddress_eq_some {c : Config} {addr off : Nat} :
    offsetOfAddress c addr = some off ↔ addr = c.regBase + off := by
  unfold offsetOfAddress
  split
  · rw [Option.some.injEq]; omega
  · simp only [reduceCtorEq, false_iff]; omega

@[simp] theorem offsetOfAddress_registerAddress (c : Config) (r : Register) :
    offsetOfAddress c (registerAddress c r) = some (registerOffset r) := offsetOfAddress_eq_some.2 rfl

/-- An access at a register's address is the host notation's access to it (10_state.md R21, 30_encoding.md R85). -/
@[simp] theorem writeAt_registerAddress (c : Config) (r : Register) (v : Word) :
    writeAt c 32 (registerAddress c r) v = some (wr r v) := by
  rw [writeAt, offsetOfAddress_registerAddress]; rfl

@[simp] theorem readAt_registerAddress (c : Config) (r : Register) : readAt c 32 (registerAddress c r) = some (rd r) := by
  rw [readAt, offsetOfAddress_registerAddress]; rfl

/-- An access inside the interface is not refused. -/
theorem checkAccess_aligned {offset : Nat} (o : Host.Outcome State Fault Refusal) (h : offset % 4 = 0) :
    checkAccess 32 offset o = o := by simp [checkAccess, h]

/-- `wr REG, v` where the block accepts it (30_encoding.md R85). -/
theorem perform_wr {s : State} (r : Register) (v : Word) (h : s.resetLine = false) :
    perform (wr r v) s = writeRegister r v s := by
  simp [wr, perform, busWrite, checkAccess_aligned _ (registerOffset_aligned r), h, writeOffset]

/-- `rd REG` where the block accepts it (30_encoding.md R85). -/
theorem perform_rd {s : State} (r : Register) (h : s.resetLine = false) :
    perform (rd r) s = .next { s with readData := some (readRegister s r) } := by
  simp [rd, perform, busRead, checkAccess_aligned _ (registerOffset_aligned r), h, readOffset]

/-- What an accepted CMD write can do: a decoded command, or the rejection of an illegal word. -/
theorem writeCmd_cases (w : Word) (s : State) :
    (∃ i, decode w = .ok i ∧ writeCmd w s = exec i s) ∨
      (∃ e, decode w = .error e ∧ writeCmd w s = rejectCommand w s) := by
  unfold writeCmd
  cases decode w with
  | ok i => exact .inl ⟨i, rfl, rfl⟩
  | error e => exact .inr ⟨e, rfl, rfl⟩

/-- The offsets at which a write can have an effect (10_state.md R21, R32). -/
theorem writeOffset_cases {off : Nat} {v : Word} {s t : State} (h : writeOffset off v s = .next t) :
    t = s ∨ (off = 0x00 ∧ writeCmd v s = .next t) ∨ (off = 0x08 ∧ v.getLsbD 0 = true ∧ t = resetBlock s) ∨
      (off = 0x0C ∧ t = { s with bufBase := lowBits s.cfg.pktAddrBits v }) ∨
      (off = 0x10 ∧ t = { s with bufLen := lowBits s.cfg.offsetBits v }) ∨
      (off = 0x14 ∧ t = { s with offset := lowBits s.cfg.offsetBits v }) := by
  unfold writeOffset registerAt at h
  split at h
  · rename_i r hr
    split at hr <;> cases hr <;> simp only [writeRegister] at h
    case h_1 => exact .inr (.inl ⟨rfl, h⟩)
    case h_3 =>
      unfold writeCtrl at h
      injection h with h
      split at h
      · rename_i hv; exact .inr (.inr (.inl ⟨rfl, hv, h.symm⟩))
      · exact .inl h.symm
    case h_4 => injection h with h; exact .inr (.inr (.inr (.inl ⟨rfl, h.symm⟩)))
    case h_5 => injection h with h; exact .inr (.inr (.inr (.inr (.inl ⟨rfl, h.symm⟩))))
    case h_6 => injection h with h; exact .inr (.inr (.inr (.inr (.inr ⟨rfl, h.symm⟩))))
    all_goals injection h with h; exact .inl h.symm
  · injection h with h; exact .inl h.symm

/-- What an action can do, where it gives a next state. -/
theorem perform_cases {a : HostAction} {s t : State} (h : perform a s = .next t) :
    t = s ∨
      (∃ w, a = .write 32 0x00 w ∧ s.resetLine = false ∧ writeCmd w s = .next t) ∨
      (∃ v, a = .write 32 0x08 v ∧ s.resetLine = false ∧ v.getLsbD 0 = true ∧ t = resetBlock s) ∨
      (∃ v, a = .write 32 0x0C v ∧ s.resetLine = false ∧ t = { s with bufBase := lowBits s.cfg.pktAddrBits v }) ∨
      (∃ v, a = .write 32 0x10 v ∧ s.resetLine = false ∧ t = { s with bufLen := lowBits s.cfg.offsetBits v }) ∨
      (∃ v, a = .write 32 0x14 v ∧ s.resetLine = false ∧ t = { s with offset := lowBits s.cfg.offsetBits v }) ∨
      (∃ off d, a = .read 32 off ∧ t = { s with readData := d }) ∨
      (∃ addr b, a = .packetWriteStart addr b ∧ addr < s.cfg.pktMemBytes ∧
        t = { s with inFlight := s.inFlight ++ [(addr, b)] }) ∨
      (∃ k c, a = .packetWriteDone k ∧ s.inFlight[k]? = some c ∧
        t = { s with mem := Memory.write s.mem c.1 c.2, inFlight := s.inFlight.eraseIdx k }) ∨
      (a = .resetAssert ∧ t = assertReset s) ∨
      (a = .resetRelease ∧ t = releaseReset s) := by
  cases a with
  | write bits off v =>
    simp only [perform, busWrite, checkAccess] at h
    split at h
    · cases h
    · rename_i hb
      obtain rfl : bits = 32 := by simpa using hb
      split at h
      · cases h
      · split at h
        · injection h with h; exact .inl h.symm
        · rename_i hr
          have hr : s.resetLine = false := by simpa using hr
          rcases writeOffset_cases h with e | ⟨rfl, e⟩ | ⟨rfl, hv, e⟩ | ⟨rfl, e⟩ | ⟨rfl, e⟩ | ⟨rfl, e⟩
          · exact .inl e
          · exact .inr (.inl ⟨v, rfl, hr, e⟩)
          · exact .inr (.inr (.inl ⟨v, rfl, hr, hv, e⟩))
          · exact .inr (.inr (.inr (.inl ⟨v, rfl, hr, e⟩)))
          · exact .inr (.inr (.inr (.inr (.inl ⟨v, rfl, hr, e⟩))))
          · exact .inr (.inr (.inr (.inr (.inr (.inl ⟨v, rfl, hr, e⟩)))))
  | read bits off =>
    simp only [perform, busRead, checkAccess] at h
    split at h
    · cases h
    · rename_i hb
      obtain rfl : bits = 32 := by simpa using hb
      split at h
      · cases h
      · injection h with h
        exact .inr (.inr (.inr (.inr (.inr (.inr (.inl ⟨off, _, rfl, h.symm⟩))))))
  | packetWriteStart addr b =>
    simp only [perform, startPacketWrite] at h
    split at h
    · rename_i hlt
      injection h with h
      exact .inr (.inr (.inr (.inr (.inr (.inr (.inr (.inl ⟨addr, b, rfl, hlt, h.symm⟩)))))))
    · cases h
  | packetWriteDone k =>
    simp only [perform, finishPacketWrite] at h
    split at h
    · rename_i c hc
      injection h with h
      exact .inr (.inr (.inr (.inr (.inr (.inr (.inr (.inr (.inl ⟨k, c, rfl, hc, h.symm⟩))))))))
    · injection h with h; exact .inl h.symm
  | resetAssert =>
    simp only [perform] at h
    injection h with h
    exact .inr (.inr (.inr (.inr (.inr (.inr (.inr (.inr (.inr (.inl ⟨rfl, h.symm⟩)))))))))
  | resetRelease =>
    simp only [perform] at h
    injection h with h
    exact .inr (.inr (.inr (.inr (.inr (.inr (.inr (.inr (.inr (.inr ⟨rfl, h.symm⟩)))))))))

/-- What a step can do: stay idle, or perform the first action of the inbox. -/
theorem step_cases {s t : State} (h : step s = .next t) :
    (s.inbox = [] ∧ t = s) ∨
      (∃ a rest, s.inbox = a :: rest ∧ perform a { s with inbox := rest } = .next t) := by
  unfold step takeAction at h
  split at h
  · rename_i hi; injection h with h; exact .inl ⟨hi, h.symm⟩
  · rename_i a rest hi; exact .inr ⟨a, rest, hi, h⟩

/-- The step with a given first action. -/
theorem step_cons {s : State} {a : HostAction} {rest : List HostAction} (h : s.inbox = a :: rest) :
    step s = perform a { s with inbox := rest } := by
  unfold step takeAction; rw [h]

/-- An accepted CMD write changes nothing but CMD, STATUS, RESULT, FIT, FAULT_CMD, HDR and the count of snapshots. -/
theorem writeCmd_frame {w : Word} {s t : State} (h : writeCmd w s = .next t) :
    t = { s with cmd := t.cmd, status := t.status, result := t.result, fit := t.fit, faultCmd := t.faultCmd,
                 hdr := t.hdr, draws := t.draws } := by
  rcases writeCmd_cases w s with ⟨i, _, e⟩ | ⟨_, _, e⟩ <;> rw [e] at h
  · rcases exec_cases h with ⟨_, rfl⟩ | ⟨_, _, rfl⟩ | ⟨_, _, _, _, _, _, _, rfl⟩ | ⟨_, _, _, rfl⟩ | ⟨_, _, _, _, rfl⟩ <;> rfl
  · unfold rejectCommand issue at h
    injection h with h
    split at h <;> subst h <;> rfl

/-- An action keeps the canonical form of packet memory. -/
theorem perform_keeps_mem_wf {a : HostAction} {s t : State} (h : perform a s = .next t)
    (hw : Memory.wf s.mem = true) : Memory.wf t.mem = true := by
  rcases perform_cases h with e | ⟨w, _, _, e⟩ | ⟨_, _, _, _, e⟩ | ⟨_, _, _, e⟩ | ⟨_, _, _, e⟩ | ⟨_, _, _, e⟩ |
    ⟨_, _, _, e⟩ | ⟨_, _, _, _, e⟩ | ⟨_, c, _, _, e⟩ | ⟨_, e⟩ | ⟨_, e⟩
  case inr.inl => rw [writeCmd_frame e]; exact hw
  case inr.inr.inr.inr.inr.inr.inr.inr.inl => rw [e]; exact Memory.write_wf _ _ hw
  all_goals rw [e]; exact hw

/-- A step keeps the canonical form of packet memory. -/
theorem step_keeps_mem_wf {s t : State} (h : step s = .next t) (hw : Memory.wf s.mem = true) :
    Memory.wf t.mem = true := by
  rcases step_cases h with ⟨_, rfl⟩ | ⟨a, rest, _, e⟩
  · exact hw
  · exact perform_keeps_mem_wf e hw

end Sys2Proof.Machine
end

