-- ==== Sys2Proof/Laws/PerInstr.lean ====
section
/-! SUPPORT. The per-instruction families: a statement about one command as syntax, and one lemma per constructor. -/

namespace Sys2Proof.Laws.EncodingFields

/-- The command's word has RSVD 0, its OP bit and its PROTO code (30_encoding.md R70 to R72), and its constructor is the one
of its protocol and kind (R74). -/
def Statement (i : Instr) : Prop :=
  rsvdField (encode i) = 0 ∧ opField (encode i) = isExtractor i ∧
    protoField (encode i) = protoCode (protoOf i) ∧
    i = (if isExtractor i then extractorOf (protoOf i) else fitCheckOf (protoOf i))

theorem fitEth : Statement .fitEth := by unfold Statement; decide

theorem fitVlan : Statement .fitVlan := by unfold Statement; decide

theorem fitIp4 : Statement .fitIp4 := by unfold Statement; decide

theorem fitIp6 : Statement .fitIp6 := by unfold Statement; decide

theorem fitIp6ext : Statement .fitIp6ext := by unfold Statement; decide

theorem fitTcp : Statement .fitTcp := by unfold Statement; decide

theorem fitUdp : Statement .fitUdp := by unfold Statement; decide

theorem extEth : Statement .extEth := by unfold Statement; decide

theorem extVlan : Statement .extVlan := by unfold Statement; decide

theorem extIp4 : Statement .extIp4 := by unfold Statement; decide

theorem extIp6 : Statement .extIp6 := by unfold Statement; decide

theorem extIp6ext : Statement .extIp6ext := by unfold Statement; decide

theorem extTcp : Statement .extTcp := by unfold Statement; decide

theorem extUdp : Statement .extUdp := by unfold Statement; decide

end Sys2Proof.Laws.EncodingFields
end

