-- ==== Sys2Proof/Tests/Slice0.lean ====
section
/-! SUPPORT. The model's own tests. Words are written out from 30_encoding.md R70 to R74; expected results are the vectors
of spec/95_test_vectors.md, each named at its test. Then one witness for every statement that has hypotheses. -/

-- One theorem after another: checked all at once, the tests ask for many threads.
set_option Elab.async false

namespace Sys2Proof.Tests

open Sys2Proof Sys2Proof.Machine

/-! ### Decoding: the word of every command, RSVD OP PROTO bit by bit (30_encoding.md R70, R71, R72) -/

theorem test_decode_fitEth : decode 0b00000000000000000000000000000000 = .ok .fitEth := by decide
theorem test_decode_fitVlan : decode 0b00000000000000000000000000000001 = .ok .fitVlan := by decide
theorem test_decode_fitIp4 : decode 0b00000000000000000000000000000010 = .ok .fitIp4 := by decide
theorem test_decode_fitIp6 : decode 0b00000000000000000000000000000011 = .ok .fitIp6 := by decide
theorem test_decode_fitIp6ext : decode 0b00000000000000000000000000000100 = .ok .fitIp6ext := by decide
theorem test_decode_fitTcp : decode 0b00000000000000000000000000000101 = .ok .fitTcp := by decide
theorem test_decode_fitUdp : decode 0b00000000000000000000000000000110 = .ok .fitUdp := by decide
theorem test_decode_extEth : decode 0b00000000000000000000000000010000 = .ok .extEth := by decide
theorem test_decode_extVlan : decode 0b00000000000000000000000000010001 = .ok .extVlan := by decide
theorem test_decode_extIp4 : decode 0b00000000000000000000000000010010 = .ok .extIp4 := by decide
theorem test_decode_extIp6 : decode 0b00000000000000000000000000010011 = .ok .extIp6 := by decide
theorem test_decode_extIp6ext : decode 0b00000000000000000000000000010100 = .ok .extIp6ext := by decide
theorem test_decode_extTcp : decode 0b00000000000000000000000000010101 = .ok .extTcp := by decide
theorem test_decode_extUdp : decode 0b00000000000000000000000000010110 = .ok .extUdp := by decide

/-- V-DEC-1. -/
theorem test_decode_proto_7 : decode 0x00000007 = .error .reservedProto := by decide

/-- V-DEC-2. -/
theorem test_decode_ext_proto_7 : decode 0x00000017 = .error .reservedProto := by decide

/-- V-DEC-3. -/
theorem test_decode_bit_5 : decode 0x00000020 = .error .reservedBits := by decide

/-- V-DEC-4. -/
theorem test_decode_bit_31 : decode 0x80000010 = .error .reservedBits := by decide

theorem test_decode_table_word : decodeTableWord 32 0x12 = some .extIp4 := by decide

/-! ### Well-formedness: each check refuses an ill-formed term -/

theorem test_wf_narrow_write : HostAction.wf (.write 16 0x14 0) = false := by decide

theorem test_wf_misaligned_write : HostAction.wf (.write 32 0x16 0) = false := by decide

theorem test_wf_narrow_read : HostAction.wf (.read 8 0x18) = false := by decide

theorem test_wf_misaligned_read : HostAction.wf (.read 32 0x19) = false := by decide

theorem test_wf_aligned_write : HostAction.wf (.write 32 0x14 0) = true := by decide

theorem test_wf_offset_bits_low : Config.wf { offsetBits := 7 } = false := by decide

theorem test_wf_offset_bits_high : Config.wf { offsetBits := 33 } = false := by decide

theorem test_wf_pkt_addr_bits_low : Config.wf { pktAddrBits := 0, pktMemBytes := 1 } = false := by decide

theorem test_wf_pkt_addr_bits_high : Config.wf { pktAddrBits := 33 } = false := by decide

theorem test_wf_no_packet_memory : Config.wf { pktMemBytes := 0 } = false := by decide

theorem test_wf_too_much_packet_memory : Config.wf { pktAddrBits := 8, pktMemBytes := 257 } = false := by decide

theorem test_wf_standard : Config.wf Config.standard = true := by decide

theorem test_wf_ethertype_clash : Wire.wf { etypeVlan := 0x0800 } = false := by decide

theorem test_wf_protocol_clash : Wire.wf { protoUdp := 6 } = false := by decide

theorem test_wf_next_header_clash : Wire.wf { nhFrag := 43 } = false := by decide

theorem test_wf_wire_standard : Wire.wf Wire.standard = true := by decide

/-! ### Small states -/

/-- OFFSET and BUF_LEN set, everything else as after reset. -/
def at_ (off len : Nat) : State :=
  { State.reset with offset := BitVec.ofNat 32 off, bufLen := BitVec.ofNat 32 len }

/-- A buffer at 0x1000 that holds exactly these bytes, OFFSET 0. -/
def holding (bytes : List Byte) : State :=
  { at_ 0 bytes.length with bufBase := 0x1000, mem := bytes.zipIdx.map fun c => (0x1000 + c.2, c.1) }

/-- PKT_MEM_BYTES = 0x100 and BUF_BASE = 0xF8, as in V-FLT-2 to V-FLT-4. -/
def atTop (len : Nat) : State :=
  { at_ 0 len with cfg := { Config.standard with pktMemBytes := 0x100 }, bufBase := 0xF8 }

/-- After V-FLT-1: EXT.ETH has raised OOB. -/
def afterOob : State := faultEntered 0x00000021 0x00000010 (at_ 0 13)

/-- One field of the next state, if there is one. -/
def view {α : Type} (o : Host.Outcome State Fault Refusal) (f : State → α) : Option α :=
  match o with
  | .next s => some (f s)
  | .fault _ => none
  | .refused _ => none

/-- The host action in a step of its own. -/
def stepWith (a : HostAction) (s : State) : Host.Outcome State Fault Refusal := step { s with inbox := [a] }

/-! ### Fit checks -/

/-- V-FIT-1. -/
theorem test_fitEth_boundary : view (exec .fitEth (at_ 0 14)) (·.fit) = some 1 := by decide

/-- V-FIT-2. -/
theorem test_fitEth_short : view (exec .fitEth (at_ 0 13)) (·.fit) = some 0 := by decide

/-- V-FIT-4. -/
theorem test_fitVlan_boundary : view (exec .fitVlan (at_ 0 4)) (·.fit) = some 1 := by decide

/-- V-FIT-6: 0xFFFF + 4 does not wrap. -/
theorem test_fitVlan_no_wrap : view (exec .fitVlan (at_ 0xFFFF 0xFFFF)) (·.fit) = some 0 := by decide

/-- V-FIT-8. -/
theorem test_fitIp4_fits : view (exec .fitIp4 (at_ 14 54)) (·.fit) = some 1 := by decide

/-- 40_fit.md R93, the example. -/
theorem test_fitIp4_short : view (exec .fitIp4 (at_ 14 33)) (·.fit) = some 0 := by decide

/-- V-FIT-8. -/
theorem test_fitIp6_boundary : view (exec .fitIp6 (at_ 14 54)) (·.fit) = some 1 := by decide

/-- 40_fit.md R94, the example. -/
theorem test_fitIp6_short : view (exec .fitIp6 (at_ 14 53)) (·.fit) = some 0 := by decide

/-- 40_fit.md R95, the example. -/
theorem test_fitIp6ext_boundary : view (exec .fitIp6ext (at_ 54 58)) (·.fit) = some 1 := by decide

/-- 40_fit.md R95, the example. -/
theorem test_fitIp6ext_short : view (exec .fitIp6ext (at_ 54 57)) (·.fit) = some 0 := by decide

/-- 40_fit.md R96, the example. -/
theorem test_fitTcp_boundary : view (exec .fitTcp (at_ 34 54)) (·.fit) = some 1 := by decide

/-- 40_fit.md R96, the example. -/
theorem test_fitTcp_short : view (exec .fitTcp (at_ 34 53)) (·.fit) = some 0 := by decide

/-- V-FIT-7. -/
theorem test_fitUdp_boundary : view (exec .fitUdp (at_ 0xFFF7 0xFFFF)) (·.fit) = some 1 := by decide

/-- V-FIT-5. -/
theorem test_fitUdp_short : view (exec .fitUdp (at_ 0 4)) (·.fit) = some 0 := by decide

/-! ### Extractors -/

/-- V-ETH-1 and its HDR words. -/
theorem test_extEth_ipv4 : view (exec .extEth (holding [0x00, 0x11, 0x22, 0x33, 0x44, 0x55, 0x66, 0x77, 0x88, 0x99, 0xAA, 0xBB, 0x08, 0x00])) (fun t => (t.result, hdrWord t 1, hdrWord t 3, hdrWord t 4)) = some (0x0002000E, 0x44556677, 0x08000000, 0) := by decide +kernel

/-- V-ETH-7: the ethertype is read big-endian. -/
theorem test_extEth_swapped : view (exec .extEth (holding [0x00, 0x11, 0x22, 0x33, 0x44, 0x55, 0x66, 0x77, 0x88, 0x99, 0xAA, 0xBB, 0x00, 0x08])) (·.result) = some 0x0001000E := by decide +kernel

/-- V-VLAN-2. -/
theorem test_extVlan_ipv6 : view (exec .extVlan (holding [0x00, 0x64, 0x86, 0xDD])) (fun t => (t.result, hdrWord t 0, hdrWord t 1)) = some (0x00030004, 0x006486DD, 0) := by decide +kernel

/-- V-VLAN-3. -/
theorem test_extVlan_double_tag : view (exec .extVlan (holding [0x00, 0xC8, 0x81, 0x00])) (·.result) = some 0x00010004 := by decide +kernel

/-- V-IP4-4: MF 0 and fragment offset 185 is still TCP. -/
theorem test_extIp4_last_fragment : view (exec .extIp4 (holding [0x45, 0x00, 0x00, 0x28, 0x00, 0x01, 0x00, 0xB9, 0x40, 0x06, 0x00, 0x00, 0xC0, 0xA8, 0x00, 0x01, 0xC0, 0xA8, 0x00, 0x02])) (fun t => (t.result, hdrWord t 1, hdrWord t 5)) = some (0x00050014, 0x000100B9, 0) := by decide +kernel

/-- V-IP4-10: MF forces UNKNOWN. -/
theorem test_extIp4_more_fragments : view (exec .extIp4 (holding [0x45, 0x00, 0x00, 0x28, 0x00, 0x01, 0x60, 0x10, 0x40, 0x11, 0x00, 0x00, 0xC0, 0xA8, 0x00, 0x01, 0xC0, 0xA8, 0x00, 0x02])) (·.result) = some 0x00010014 := by decide +kernel

/-- V-IP6-7, and the last of the 40 bytes. -/
theorem test_extIp6_dstopt : view (exec .extIp6 (holding [0x60, 0x00, 0x00, 0x00, 0x00, 0x20, 0x3C, 0x40, 0x00, 0x00, 0x00, 0x00, 0x00, 0x00, 0x00, 0x00, 0x00, 0x00, 0x00, 0x00, 0x00, 0x00, 0x00, 0x00, 0x00, 0x00, 0x00, 0x00, 0x00, 0x00, 0x00, 0x00, 0x00, 0x00, 0x00, 0x00, 0x00, 0x00, 0x00, 0x00])) (fun t => (t.result, hdrWord t 1)) = some (0x000A0028, 0x00203C40) := by decide +kernel

/-- V-IP6-8: ICMPv6 is UNKNOWN. -/
theorem test_extIp6_unknown : view (exec .extIp6 (holding [0x60, 0x00, 0x00, 0x00, 0x00, 0x20, 0x3A, 0x40, 0x00, 0x00, 0x00, 0x00, 0x00, 0x00, 0x00, 0x00, 0x00, 0x00, 0x00, 0x00, 0x00, 0x00, 0x00, 0x00, 0x00, 0x00, 0x00, 0x00, 0x00, 0x00, 0x00, 0x00, 0x00, 0x00, 0x00, 0x00, 0x00, 0x00, 0x00, 0x00])) (·.result) = some 0x00010028 := by decide +kernel

/-- V-EXT-4: the next header is the fragment header, so LEN is 8, not 32. -/
theorem test_extIp6ext_fragment_next : view (exec .extIp6ext (holding [0x2C, 0x03, 0x00, 0x00])) (·.result) = some 0x00090008 := by decide +kernel

/-- V-EXT-2: the largest LEN. -/
theorem test_extIp6ext_longest : view (exec .extIp6ext (holding [0x11, 0xFF, 0x00, 0x00])) (·.result) = some 0x00060800 := by decide +kernel

/-- V-TCP-5: the low nibble is ignored. -/
theorem test_extTcp_low_nibble : view (exec .extTcp (holding [0x04, 0xD2, 0x00, 0x50, 0x00, 0x00, 0x00, 0x01, 0x00, 0x00, 0x00, 0x00, 0x1F, 0x02, 0xFF, 0xFF, 0x00, 0x00, 0x00, 0x00])) (fun t => (t.result, hdrWord t 3)) = some (0x00000004, 0x1F02FFFF) := by decide +kernel

/-- V-TCP-3: LEN 0 is no fault. -/
theorem test_extTcp_zero : view (exec .extTcp (holding [0x04, 0xD2, 0x00, 0x50, 0x00, 0x00, 0x00, 0x01, 0x00, 0x00, 0x00, 0x00, 0x00, 0x02, 0xFF, 0xFF, 0x00, 0x00, 0x00, 0x00])) (fun t => (t.result, t.status)) = some (0, 0) := by decide +kernel

/-- V-UDP-2. -/
theorem test_extUdp_length_unused : view (exec .extUdp (holding [0x12, 0xB5, 0x12, 0xB5, 0x00, 0x00, 0xFF, 0xFF])) (fun t => (t.result, hdrWord t 0, hdrWord t 1, hdrWord t 2)) = some (0x00000008, 0x12B512B5, 0x0000FFFF, 0) := by decide +kernel

/-- V-FLT-2: 0xF8 + 8 = 0x100 completes. -/
theorem test_extUdp_at_top : view (exec .extUdp (atTop 20)) (fun t => (t.status, t.faultCmd, t.result)) = some (0, 0, 8) := by decide +kernel

/-! ### Faults, registers and reset, each in one step -/

/-- V-DEC-1. -/
theorem test_illegal_word : view (stepWith (wr .cmd 0x00000007) State.reset) (fun t => (t.status, t.faultCmd, t.cmd)) = some (0x00000011, 0x00000007, 0x00000007) := by decide

/-- V-FLT-1. -/
theorem test_oob : view (stepWith (cmd .extEth) (at_ 0 13)) (fun t => (t.status, t.faultCmd, t.cmd, t.result)) = some (0x00000021, 0x00000010, 0x00000010, 0) := by decide +kernel

/-- V-FLT-3. -/
theorem test_addr_range : view (stepWith (cmd .extIp4) (atTop 20)) (fun t => (t.status, t.faultCmd)) = some (0x00000031, 0x00000012) := by decide +kernel

/-- V-FLT-4. -/
theorem test_oob_before_addr_range : view (stepWith (cmd .extIp4) (atTop 10)) (·.status) = some 0x00000021 := by decide +kernel

/-- V-FLT-5. -/
theorem test_fault_state_ignores_commands : view (stepWith (cmd .extUdp) afterOob) (fun t => (t.status, t.faultCmd, t.cmd, t.result)) = some (0x00000021, 0x00000010, 0x00000010, 0) := by decide +kernel

/-- V-FLT-6. -/
theorem test_soft_reset : view (stepWith (wr .ctrl 1) afterOob) (fun t => (t.status, t.faultCmd, t.bufLen, irqFault t)) = some (0, 0, 0, false) := by decide +kernel

/-- V-FLT-7. -/
theorem test_ctrl_without_srst : view (stepWith (wr .ctrl 0) afterOob) (fun t => (t.status, t.faultCmd, irqFault t)) = some (0x00000021, 0x00000010, true) := by decide +kernel

/-- V-REG-1. -/
theorem test_offset_width : view (stepWith (wr .offset 0xFFFFFFFF) State.reset) (·.offset) = some 0x0000FFFF := by decide

/-- V-REG-5. -/
theorem test_buf_len_width : view (stepWith (wr .bufLen 0x00010036) State.reset) (·.bufLen) = some 0x00000036 := by decide

/-- V-REG-2. -/
theorem test_result_is_read_only : view (stepWith (wr .result 0x12345678) State.reset) (·.result) = some 0 := by decide

/-- V-REG-3. -/
theorem test_unmapped_reads_zero : view (stepWith (.read 32 0x30) afterOob) (·.readData) = some (some 0) := by decide

/-- V-REG-4. -/
theorem test_ctrl_reads_zero : view (stepWith (rd .ctrl) afterOob) (·.readData) = some (some 0) := by decide

/-- V-REG-6. -/
theorem test_hdr_is_read_only : view (stepWith (wr (.hdr 0) 0xFFFFFFFF) State.reset) (hdrWord · 0) = some 0 := by decide +kernel

/-- PROG5 step 11. -/
theorem test_status_reads_back : view (stepWith (rd .status) afterOob) (·.readData) = some (some 0x00000021) := by decide

/-- 10_state.md R21: registers placed at 0x40001000, BUF_LEN at 0x10 from there. -/
theorem test_register_address : writeAt { regBase := 0x40001000 } 32 0x40001010 0x36 = some (.write 32 0x10 0x36) ∧
    writeAt { regBase := 0x40001000 } 32 0x40000FFC 0x36 = none := by decide

/-- 10_state.md R33: refused, not ignored. -/
theorem test_misaligned_refused : stepWith (.read 32 0x02) State.reset = .refused (.accessNotAligned 2) := rfl

/-- A word placed by withFetchWord is the next step's command. -/
theorem test_fetch_word : view (step (State.reset.withFetchWord 32 0x15)) (fun t => (t.status, t.faultCmd, t.inbox)) =
    some (0x00000021, 0x00000015, []) := by decide +kernel

/-- The packet memory write that completes is the one read (20_memory.md R60). -/
theorem test_packet_write_done :
    view (stepWith (.packetWriteDone 0) { State.reset with inFlight := [(7, 0xAB)] }) (fun t => (t.mem, t.inFlight)) =
      some ([(7, 0xAB)], []) := by decide

/-- One transition of scenario A (44_parser_fsm.md R179): (ETH, 0) to (IPV4, 14). -/
theorem test_transition_eth :
    (match transition .eth 0 (holding [0x00, 0x11, 0x22, 0x33, 0x44, 0x55, 0x66, 0x77, 0x88, 0x99, 0xAA, 0xBB, 0x08, 0x00]) with
      | .next (m, _) => some m
      | _ => none) = some (.moved .ipv4 14) := by decide +kernel

/-! ### Witnesses: for each statement with hypotheses, states and operands that meet them together -/

/-- PROG1's Ethernet header in a buffer of its own length: the header ends with the buffer. -/
def ethBuffer : State := holding [0x00, 0x11, 0x22, 0x33, 0x44, 0x55, 0x66, 0x77, 0x88, 0x99, 0xAA, 0xBB, 0x08, 0x00]

/-- A buffer of 40 zero bytes that ends where packet memory ends: every header of 40 bytes ends with both. -/
def topBuffer : State :=
  { at_ 0 40 with cfg := { Config.standard with pktMemBytes := 0x100 }, bufBase := 0xD8 }

/-- `topBuffer` with BUF_LEN `n` and its first byte at 0x100 - n: the header of `n` bytes ends with both. -/
def endingBuffer (n : Nat) : State :=
  { at_ 0 n with cfg := { Config.standard with pktMemBytes := 0x100 }, bufBase := BitVec.ofNat 32 (0x100 - n) }

/-- The reset input asserted. -/
def inReset : State := { State.reset with resetLine := true }

/-- A write of 0xAB to address 7 in progress. -/
def oneInFlight : State := { State.reset with inFlight := [(7, 0xAB)] }

/-- StepRunsTheDecodedCommand, both clauses. -/
theorem witness_StepRunsTheDecodedCommand :
    State.reset.resetLine = false ∧ ({ State.reset with inbox := [wr .cmd 0x12] } : State).inbox = [wr .cmd 0x12] ∧
    decode 0x12 = .ok .extIp4 ∧
    0x16 < 2 ^ 32 ∧ decode (BitVec.ofNat 32 0x16) = .ok .extUdp := by decide

theorem witness_IdleStepChangesNothing : State.reset.inbox = [] := rfl

/-- IllegalWordEntersFaultState: PROTO just above 6, and the lowest reserved bit. -/
theorem witness_IllegalWordEntersFaultState :
    faulted State.reset = false ∧ State.reset.resetLine = false ∧ ((0x07 : Word).extractLsb' 0 4).toNat > 6 ∧
      (0x20 : Word).extractLsb' 5 27 ≠ 0 := by decide

theorem witness_FaultStateIgnoresCommandsOnly : faulted afterOob = true ∧ afterOob.resetLine = false := by decide

/-- OobFaultsBeforeReading: an extractor and a fit check one byte short. -/
theorem witness_OobFaultsBeforeReading :
    faulted (at_ 0 13) = false ∧ ¬HeaderFits (protoOf .extEth) (at_ 0 13) ∧ isExtractor .extEth = true ∧
      ¬HeaderFits (protoOf .fitEth) (at_ 0 13) ∧ isExtractor .fitEth = false := by decide

/-- UnreadableHeaderRaisesAddrRange: V-FLT-3. -/
theorem witness_UnreadableHeaderRaisesAddrRange :
    faulted (atTop 20) = false ∧ isExtractor .extIp4 = true ∧ HeaderFits (protoOf .extIp4) (atTop 20) ∧
      ¬HeaderReadable (protoOf .extIp4) (atTop 20) := by decide

/-- CommandReportsFirstApplyingCause: the four cases at their boundaries, one of them both OOB and out of range. -/
theorem witness_CommandReportsFirstApplyingCause :
    (atTop 19).status = 0 ∧ (atTop 19).resetLine = false ∧ decode 0x20 = .error .reservedBits ∧
      ¬HeaderFits (protoOf .extIp4) (atTop 19) ∧ ¬HeaderReadable (protoOf .extIp4) (atTop 19) ∧
      (atTop 20).status = 0 ∧ HeaderFits (protoOf .extIp4) (atTop 20) ∧
      ¬HeaderReadable (protoOf .extIp4) (atTop 20) ∧
      HeaderFits (protoOf .extUdp) (atTop 20) ∧ HeaderReadable (protoOf .extUdp) (atTop 20) ∧
      isExtractor .fitUdp = false := by decide

theorem witness_FaultEntryIsPrecise :
    faulted State.reset = false ∧
      perform (wr .cmd 0x07) State.reset = .next (raiseFault .illegalCmd 0x07 State.reset) ∧
      faulted (raiseFault .illegalCmd 0x07 State.reset) = true :=
  ⟨by decide, rfl, by decide⟩

/-- OnlyAResetLeavesTheFaultState: both resets. -/
theorem witness_OnlyAResetLeavesTheFaultState :
    (let s : State := { afterOob with inbox := [.resetAssert] }
      ∃ t, step s = .next t ∧ faulted s = true ∧ faulted t = false) ∧
    (let s : State := { afterOob with inbox := [wr .ctrl 1] }
      ∃ t, step s = .next t ∧ faulted s = true ∧ faulted t = false) ∧ (1 : Word).getLsbD 0 = true :=
  ⟨⟨_, rfl, by decide, faulted_assertReset _⟩, ⟨resetBlock afterOob, rfl, by decide, faulted_resetBlock _⟩, by decide⟩

/-- StatusChangesOnlyOnFaultEntryAndReset: an entry and a reset. -/
theorem witness_StatusChangesOnlyOnFaultEntryAndReset :
    (∃ t, step { State.reset with inbox := [wr .cmd 0x07] } = .next t ∧ t.status ≠ State.reset.status) ∧
    (∃ t, step { afterOob with inbox := [.resetAssert] } = .next t ∧ t.status ≠ afterOob.status) :=
  ⟨⟨raiseFault .illegalCmd 0x07 State.reset, rfl, by decide⟩, ⟨_, rfl, by decide⟩⟩

theorem witness_FitChecksAnswerTheBound : faulted (at_ 0 14) = false ∧ faulted (at_ 0 13) = false := by decide

/-- FitAgreesWithExtractor: the buffer ends with the header, inside packet memory and past its end (V-FLT-3). -/
theorem witness_FitAgreesWithExtractor :
    (∃ t, exec (fitCheckOf .ip4) (atTop 20) = .next t ∧ faulted (atTop 20) = false ∧ fitsField t = true) ∧
      (atTop 20).status = 0 ∧ (∃ v, exec (extractorOf .ip4) (atTop 20) = .next v) :=
  ⟨⟨_, fitCheck_running _ _ (by decide), by decide, by decide⟩, rfl, exec_next _ _⟩

/-- The extractor statements: each header ends where the buffer and packet memory end; one byte less does not fit, and
in a packet memory one byte shorter it is not readable. -/
def EndsWithBoth (p : Proto) : Prop :=
  let s := endingBuffer (fixedSize p)
  let u : State := { s with cfg := { Config.standard with pktMemBytes := 0xFF } }
  faulted s = false ∧ HeaderFits p s ∧ HeaderReadable p s ∧
    faulted (endingBuffer (fixedSize p - 1)) = false ∧ ¬HeaderFits p (endingBuffer (fixedSize p - 1)) ∧
    faulted u = false ∧ HeaderFits p u ∧ ¬HeaderReadable p u

theorem witness_ExtEthExtracts : EndsWithBoth .eth := by unfold EndsWithBoth; decide

theorem witness_ExtVlanExtracts : EndsWithBoth .vlan := by unfold EndsWithBoth; decide

theorem witness_ExtIp4Extracts : EndsWithBoth .ip4 := by unfold EndsWithBoth; decide

theorem witness_ExtIp6Extracts : EndsWithBoth .ip6 := by unfold EndsWithBoth; decide

theorem witness_ExtIp6extExtracts : EndsWithBoth .ip6ext := by unfold EndsWithBoth; decide

theorem witness_ExtTcpExtracts : EndsWithBoth .tcp := by unfold EndsWithBoth; decide

theorem witness_ExtUdpExtracts : EndsWithBoth .udp := by unfold EndsWithBoth; decide

theorem witness_DistinctWireConstantsSelectTheirRows : Wire.standard.wf = true ∧
    (0 : Half) ∉ [Wire.standard.etypeIpv4, Wire.standard.etypeVlan, Wire.standard.etypeIpv6] ∧
    (47 : Byte) ∉ [Wire.standard.protoTcp, Wire.standard.protoUdp] := by decide

/-- ExtensionLengthKeyedOnResolvedTag: V-EXT-4 (next header 44) and V-EXT-2 (the largest length field). -/
theorem witness_ExtensionLengthKeyedOnResolvedTag :
    let s := holding [0x2C, 0x03, 0x00, 0x00]
    let u := holding [0x11, 0xFF, 0x00, 0x00]
    s.cfg.wire = Wire.standard ∧ faulted s = false ∧ HeaderFits .ip6ext s ∧ HeaderReadable .ip6ext s ∧
      (headerOf .ip6ext s).getD 0 0 = 44 ∧
      u.cfg.wire = Wire.standard ∧ faulted u = false ∧ HeaderFits .ip6ext u ∧ HeaderReadable .ip6ext u ∧
      (headerOf .ip6ext u).getD 0 0 ≠ 44 := by decide

/-- ConsumedLengthsAreNarrowedInvariant, for EXT.ETH and for another extractor. -/
theorem witness_ConsumedLengthsAreNarrowedInvariant :
    (∃ t, exec .extEth ethBuffer = .next t) ∧ isExtractor .extEth = true ∧ faulted ethBuffer = false ∧
      HeaderFits (protoOf .extEth) ethBuffer ∧ HeaderReadable (protoOf .extEth) ethBuffer ∧
      (∃ t, exec .extUdp ethBuffer = .next t) ∧ HeaderFits (protoOf .extUdp) ethBuffer ∧
      HeaderReadable (protoOf .extUdp) ethBuffer :=
  ⟨exec_next _ _, rfl, by decide, by decide, by decide, exec_next _ _, by decide, by decide⟩

/-- TagCodesAreTheTable, its last clause: PROG1's ethertype gives IPV4, code 2, where RESULT was 0. -/
theorem witness_TagCodesAreTheTable :
    ethBuffer.result = 0 ∧ view (exec .extEth ethBuffer) (·.result) = some 0x0002000E := by decide +kernel

theorem witness_ExtractorsProduceOnlyTheirTags :
    faulted topBuffer = false ∧ ∀ i ∈ [Instr.extEth, .extVlan, .extIp4, .extIp6, .extIp6ext, .extTcp, .extUdp],
      HeaderFits (protoOf i) topBuffer ∧ HeaderReadable (protoOf i) topBuffer := by decide

theorem witness_NoHostActionWritesPacketMemory :
    (∀ addr b, wr .offset 14 ≠ .packetWriteStart addr b) ∧ (∀ k, wr .offset 14 ≠ .packetWriteDone k) ∧
      (∃ t, perform (wr .offset 14) State.reset = .next t) ∧ (∃ t, exec .extUdp topBuffer = .next t) :=
  ⟨(fun _ _ h => by cases h), (fun _ h => by cases h), ⟨_, perform_wr _ _ rfl⟩, exec_next _ _⟩

/-- CommandsKeepTheHostsRegisters: a fit check and an extractor. -/
theorem witness_CommandsKeepTheHostsRegisters :
    (∃ t, exec .fitEth ethBuffer = .next t) ∧ isExtractor .fitEth = false ∧
      (∃ t, exec .extEth ethBuffer = .next t) ∧ isExtractor .extEth = true :=
  ⟨exec_next _ _, rfl, exec_next _ _, rfl⟩

/-- OutputsChangeOnlyByTheirCommands: RESULT, FIT and OFFSET each change in one step. -/
theorem witness_OutputsChangeOnlyByTheirCommands :
    (view (stepWith (cmd .extEth) ethBuffer) (fun t => decide (t.result ≠ ethBuffer.result)) = some true) ∧
    (view (stepWith (cmd .fitEth) ethBuffer) (fun t => decide (t.fit ≠ ethBuffer.fit)) = some true) ∧
    (view (stepWith (wr .offset 14) ethBuffer) (fun t => decide (t.offset ≠ ethBuffer.offset)) = some true) := by
  decide +kernel

/-- OutputsDependOnCommandInputsAlone: two states of different history and different bytes after the header. -/
theorem witness_OutputsDependOnCommandInputsAlone :
    let s := ethBuffer
    let u : State := { s with result := 5, fit := 1, cmd := 3, mem := s.mem ++ [(0x2000, 9)], draws := 8 }
    s.status = 0 ∧ u.status = 0 ∧ u.cfg = s.cfg ∧ u.bufBase = s.bufBase ∧ u.bufLen = s.bufLen ∧
      u.offset = s.offset ∧ Quiet s 0x1000 14 ∧ Quiet u 0x1000 14 ∧
      (∀ k, k < 14 → packetByte u (0x1000 + k) = packetByte s (0x1000 + k)) ∧
      view (exec .extEth s) (·.status) = some 0 ∧ view (exec .extEth u) (·.status) = some 0 := by
  decide +kernel

theorem witness_RepeatingACommandChangesNothing :
    Quiet ethBuffer (ethBuffer.bufBase.toNat + ethBuffer.offset.toNat) (fixedSize (protoOf .extEth)) ∧
      (∃ t, exec .extEth ethBuffer = .next t) :=
  ⟨by decide, exec_next _ _⟩

/-- SnapshotReadsPacketBytesInOrder: each clause at its boundary. -/
theorem witness_SnapshotReadsPacketBytesInOrder :
    (at_ 0 13).offset.toNat + 14 > (at_ 0 13).bufLen.toNat ∧
      (atTop 20).offset.toNat + 9 ≤ (atTop 20).bufLen.toNat ∧
      (atTop 20).bufBase.toNat + (atTop 20).offset.toNat + 9 > (atTop 20).cfg.pktMemBytes ∧
      (atTop 20).bufBase.toNat + (atTop 20).offset.toNat + 8 ≤ (atTop 20).cfg.pktMemBytes ∧
      Quiet (atTop 20) 0xF8 8 := by decide

/-- RacedByteIsOldOrNew: a byte with a write in progress, and one without. -/
theorem witness_RacedByteIsOldOrNew :
    0 < 2 ∧ (7 + 0, (0xAB : Byte)) ∈ oneInFlight.inFlight ∧ 1 < 2 ∧ ∀ c ∈ oneInFlight.inFlight, c.1 ≠ 7 + 1 := by decide

/-- CompletedPacketWriteIsSeen, both clauses: a reset while a write is in progress. -/
theorem witness_CompletedPacketWriteIsSeen : oneInFlight.inFlight[0]? = some (7, 0xAB) ∧
    (∀ addr b, HostAction.resetAssert ≠ .packetWriteStart addr b) ∧ (∀ k, HostAction.resetAssert ≠ .packetWriteDone k) ∧
    (∃ t, perform .resetAssert oneInFlight = .next t) :=
  ⟨rfl, (fun _ _ h => by cases h), (fun _ h => by cases h), ⟨_, rfl⟩⟩

/-- PacketWriteOutsideMemoryStops: the last byte of packet memory and the first address past it. -/
theorem witness_PacketWriteOutsideMemoryStops :
    0xFF < (atTop 20).cfg.pktMemBytes ∧ (atTop 20).cfg.pktMemBytes ≤ 0x100 := by decide

theorem witness_RegisterMapReads : (0x24 : Nat) % 4 = 0 ∧ State.reset.resetLine = false ∧
    ((0x20 : Nat) < 0x24 ∧ (0x24 : Nat) < 0x40) ∧ (0x64 : Nat) < 0x68 := by decide

theorem witness_BufferRegisterWritesKeepTheirFields : afterOob.resetLine = false := rfl

/-- ReadOnlyAndUnmappedWritesAreIgnored: STATUS, HDR9 and the unmapped offset after it. -/
theorem witness_ReadOnlyAndUnmappedWritesAreIgnored :
    (∀ off ∈ [0x04, 0x64, 0x68], off % 4 = 0 ∧ off ∉ [0x00, 0x08, 0x0C, 0x10, 0x14]) ∧
      (∀ r, registerOffset r ≠ 0x68) ∧ State.reset.resetLine = false := by
  refine ⟨by decide, fun r h => ?_, rfl⟩
  have := registerAt_registerOffset r
  rw [h] at this
  cases this

/-- AccessesOutsideTheInterfaceAreRefused: 16 bits wide, misaligned by 2, and inside the interface. -/
theorem witness_AccessesOutsideTheInterfaceAreRefused :
    (16 ≠ 32 ∨ 0 % 4 ≠ 0) ∧ (32 ≠ 32 ∨ 2 % 4 ≠ 0) ∧ (32 = 32 ∧ 4 % 4 = 0 ∧ State.reset.resetLine = false) := by decide

theorem witness_ResetValues : afterOob.resetLine = false ∧ (1 : Word).getLsbD 0 = true ∧
    (0xFFFFFFFE : Word).getLsbD 0 = false := by decide

theorem witness_AssertedResetAcceptsNoAccess : inReset.resetLine = true ∧ 0x14 % 4 = 0 := by decide

theorem reset_blockAtReset : BlockAtReset State.reset :=
  ⟨rfl, rfl, rfl, rfl, rfl, rfl, rfl, rfl, by decide, by decide⟩

/-- EveryFitFailsAndEveryExtractFaultsAfterReset. -/
theorem witness_EveryFitFailsAndEveryExtractFaultsAfterReset : BlockAtReset State.reset ∧
    isExtractor .fitVlan = false ∧ isExtractor .extVlan = true := ⟨reset_blockAtReset, rfl, rfl⟩

/-- RegistersStandAtTheRegisterBase: the last address below the base. -/
theorem witness_RegistersStandAtTheRegisterBase : 0x40000FFF < ({ regBase := 0x40001000 } : Config).regBase ∧
    registerAddress { regBase := 0x40001000 } .cmd = registerAddress { regBase := 0x40001000 } .cmd := by decide

theorem witness_ParametersNeverChange : ∃ t, step { State.reset with inbox := [.resetAssert] } = .next t := ⟨_, rfl⟩

/-- InvariantKeptByEveryStep: a state with a packet, a write in progress and a fault to come has the invariant. -/
theorem busy_inv : Inv { atTop 20 with mem := [(3, 1), (0xFF, 2)], inFlight := [(7, 0xAB)], inbox := [cmd .extIp4] } where
  cfg := by decide
  bufBase := by decide
  bufLen := by decide
  offset := by decide
  status := .inl rfl
  fit := .inl rfl
  result := by decide
  running _ := ⟨rfl, .fitEth, by decide⟩
  stuck h := absurd rfl h
  illegal h := absurd h (by decide)
  extractor h := absurd h (by decide)
  memWf := by decide
  memRange := by decide
  inFlightRange := by decide
  held h := absurd h (by decide)

theorem witness_InvariantKeptByEveryStep : ∃ s, Inv s ∧ ∃ t, step s = .next t :=
  ⟨_, busy_inv, by rw [step_cons rfl, cmd, perform_wr _ _ rfl]; exact exec_next .extIp4 _⟩

/-- TransitionFollowsTheExtractor: the header fits, does not fit, and a cursor OFFSET cannot hold. -/
theorem witness_TransitionFollowsTheExtractor :
    faulted ethBuffer = false ∧ ethBuffer.resetLine = false ∧ ethBuffer.cfg.offsetBits ≤ 32 ∧
      6 < 2 ^ ethBuffer.cfg.offsetBits ∧ 6 + fixedSize .udp ≤ ethBuffer.bufLen.toNat ∧
      ethBuffer.bufBase.toNat + 6 + fixedSize .udp ≤ ethBuffer.cfg.pktMemBytes ∧
      7 < 2 ^ ethBuffer.cfg.offsetBits ∧ ¬7 + fixedSize .udp ≤ ethBuffer.bufLen.toNat ∧
      2 ^ ethBuffer.cfg.offsetBits ≤ 65536 := by decide

theorem witness_EveryParseEndsWithinItsBound : ∃ s, Inv s ∧ faulted s = false ∧ s.resetLine = false ∧ BufferInside s ∧
    HeaderFits .ip4 s :=
  ⟨{ endingBuffer 20 with mem := [(0xEC, 0x45)] },
    { cfg := by decide
      bufBase := by decide
      bufLen := by decide
      offset := by decide
      status := .inl rfl
      fit := .inl rfl
      result := by decide
      running := fun _ => ⟨rfl, .fitEth, by decide⟩
      stuck := fun h => absurd rfl h
      illegal := fun h => absurd h (by decide)
      extractor := fun h => absurd h (by decide)
      memWf := by decide
      memRange := by decide
      inFlightRange := by decide
      held := fun h => absurd h (by decide) },
    by decide, rfl, by decide, by decide⟩

end Sys2Proof.Tests
end

section
/-! The register interface as the host sees it: which offsets are a register's, what an access inside the interface
does, and which accesses are refused (10_state.md R21, R32, R33). -/

namespace Sys2Proof.Machine

/-! ### The register map -/

/-- With `registerAt_registerOffset`: the two directions of the map of 10_state.md R21 are inverse. -/
theorem registerOffset_of_registerAt {off : Nat} {r : Register} (h : registerAt off = some r) :
    registerOffset r = off := by
  unfold registerAt at h
  split at h <;> cases h <;> rfl

theorem registerAt_eq_none {off : Nat} (h : ∀ r, registerOffset r ≠ off) : registerAt off = none :=
  Option.eq_none_iff_forall_ne_some.2 fun r hr => h r (registerOffset_of_registerAt hr)

theorem readOffset_unmapped (s : State) {off : Nat} (h : ∀ r, registerOffset r ≠ off) : readOffset s off = 0 := by
  rw [readOffset, registerAt_eq_none h]

/-- The writable registers are CMD, CTRL, BUF_BASE, BUF_LEN and OFFSET; a write to any other is ignored. -/
theorem writeRegister_readOnly {r : Register} (v : Word) (s : State)
    (h : registerOffset r ∉ [0x00, 0x08, 0x0C, 0x10, 0x14]) : writeRegister r v s = .next s := by
  cases r with
  | cmd | ctrl | bufBase | bufLen | offset => simp [registerOffset] at h
  | status | result | fit | faultCmd | hdr k => rfl

/-- An offset that is not writable holds a read-only register or none at all. -/
theorem writeOffset_ignored {off : Nat} (v : Word) (s : State) (h : off ∉ [0x00, 0x08, 0x0C, 0x10, 0x14]) :
    writeOffset off v s = .next s := by
  unfold writeOffset
  cases hr : registerAt off with
  | none => rfl
  | some r =>
    rw [← registerOffset_of_registerAt hr] at h
    exact writeRegister_readOnly v s h

/-! ### No accepted write stops the machine -/

theorem writeCmd_next (w : Word) (s : State) : ∃ t, writeCmd w s = .next t := by
  rcases writeCmd_cases w s with ⟨i, _, e⟩ | ⟨_, _, e⟩ <;> rw [e]
  · exact exec_next i s
  · exact ⟨_, rfl⟩

theorem writeRegister_next (r : Register) (v : Word) (s : State) : ∃ t, writeRegister r v s = .next t := by
  cases r with
  | cmd => exact writeCmd_next v s
  | _ => exact ⟨_, rfl⟩

theorem writeOffset_next (off : Nat) (v : Word) (s : State) : ∃ t, writeOffset off v s = .next t := by
  unfold writeOffset
  cases registerAt off with
  | none => exact ⟨s, rfl⟩
  | some r => exact writeRegister_next r v s

/-! ### Accesses inside and outside the interface -/

/-- 10_state.md R33; which of the two refusals it is depends on the width alone (log entry 8). -/
theorem checkAccess_refused {bits off : Nat} (o : Host.Outcome State Fault Refusal) (h : bits ≠ 32 ∨ off % 4 ≠ 0) :
    ∃ r, checkAccess bits off o = .refused r := by
  unfold checkAccess
  by_cases hb : bits = 32
  · have ho : off % 4 ≠ 0 := h.resolve_left (not_not_intro hb)
    exact ⟨.accessNotAligned off, by rw [if_neg (not_not_intro hb), if_pos ho]⟩
  · exact ⟨.accessNotWordWide bits, if_pos hb⟩

theorem perform_write_aligned {off : Nat} (v : Word) (s : State) (h : off % 4 = 0) :
    perform (.write 32 off v) s = if s.resetLine then .next s else writeOffset off v s :=
  checkAccess_aligned _ h

theorem perform_read_aligned {off : Nat} (s : State) (h : off % 4 = 0) :
    perform (.read 32 off) s = .next { s with readData := if s.resetLine then none else some (readOffset s off) } :=
  checkAccess_aligned _ h

/-! ### The obligations -/

/-- Settles O43: such a write is ignored whether the reset input drops it or the register map does, and an unmapped
read finds no register. -/
theorem readOnlyAndUnmappedWritesAreIgnored : Obligations.ReadOnlyAndUnmappedWritesAreIgnored := by
  refine ⟨fun s off v ho hw => ?_, fun s off ho hu hr => ?_, fun s hr => perform_rd .ctrl hr⟩
  · rw [perform_write_aligned v s ho, writeOffset_ignored v s hw, ite_self]
  · simp [perform_read_aligned s ho, hr, readOffset_unmapped s hu]

/-- Settles O44: only `checkAccess` refuses, and behind it every write and every read answers a next state. -/
theorem accessesOutsideTheInterfaceAreRefused : Obligations.AccessesOutsideTheInterfaceAreRefused := by
  intro s bits off v
  refine ⟨fun h => ⟨checkAccess_refused _ h, checkAccess_refused _ h⟩, ?_⟩
  rintro rfl ho hr
  constructor
  · simpa [perform_write_aligned v s ho, hr] using writeOffset_next off v s
  · exact ⟨_, perform_read_aligned s ho⟩

end Sys2Proof.Machine
end

section
/-! The block never writes packet memory (20_memory.md R52): the list of written bytes is the same after every command and
after every action but the completion of a platform agent's write. -/

namespace Sys2Proof.Machine

/-! ### What leaves packet memory alone -/

theorem exec_mem {i : Instr} {s t : State} (h : exec i s = .next t) : t.mem = s.mem := by
  rcases exec_cases h with ⟨_, rfl⟩ | ⟨_, _, rfl⟩ | ⟨_, _, _, _, tag, len, _, rfl⟩ | ⟨_, _, _, rfl⟩ | ⟨_, _, _, _, rfl⟩
  · rfl
  · exact completeFit_mem s _ _
  · exact completeExtract_mem s _ tag len _
  · exact raiseFault_mem s .oob _
  · exact raiseFault_mem s .addrRange _

theorem writeCmd_mem {w : Word} {s t : State} (h : writeCmd w s = .next t) : t.mem = s.mem := by
  rw [writeCmd_frame h]

/-- The start of a platform agent's write is allowed here: its byte is only in progress until the write completes
(20_memory.md R58, R60). -/
theorem perform_mem {a : HostAction} {s t : State} (h : perform a s = .next t) (hd : ∀ k, a ≠ .packetWriteDone k) :
    t.mem = s.mem := by
  rcases perform_cases h with rfl | ⟨w, _, _, hcmd⟩ | ⟨v, _, _, _, rfl⟩ | ⟨v, _, _, rfl⟩ | ⟨v, _, _, rfl⟩ |
    ⟨v, _, _, rfl⟩ | ⟨off, d, _, rfl⟩ | ⟨addr, b, _, _, rfl⟩ | ⟨k, c, hk, _, _⟩ | ⟨_, rfl⟩ | ⟨_, rfl⟩
  case inr.inl => exact writeCmd_mem hcmd
  case inr.inr.inr.inr.inr.inr.inr.inr.inl => exact absurd hk (hd k)
  all_goals rfl

/-! ### The obligation -/

/-- Settles O31: a byte of packet memory reads as before where the list of written bytes is the same, and only a completing
packet memory write changes that list. -/
theorem noHostActionWritesPacketMemory : Obligations.NoHostActionWritesPacketMemory :=
  ⟨fun _ _ _ _ hd h => packetByte_congr (perform_mem h hd), fun _ _ _ h => packetByte_congr (exec_mem h)⟩

end Sys2Proof.Machine
end

section
/-! The decoder against the encoder and the opcode map, and the tag codes: a word is determined by its three fields, and a
field's code and its meaning determine each other (30_encoding.md R70 to R75). -/

namespace Sys2Proof

/-! ### The fields of a command word -/

/-- The layout of 30_encoding.md R70. -/
theorem word_eq_append_fields (w : Word) : w = rsvdField w ++ BitVec.ofBool (opField w) ++ protoField w := by
  refine BitVec.eq_of_getLsbD_eq fun k hk => ?_
  simp only [rsvdField, opField, protoField, BitVec.getLsbD_append, BitVec.getLsbD_extractLsb', BitVec.getLsbD_ofBool]
  by_cases hproto : k < 4
  · simp [hproto]
  · by_cases hop : k = 4
    · simp [hop]
    · simp [hproto, show ¬k - 4 < 1 by omega, show k - 4 - 1 < 27 by omega, show 5 + (k - 4 - 1) = k by omega]

@[simp] theorem protoOfCode_protoCode (p : Proto) : protoOfCode (protoCode p) = some p := by cases p <;> rfl

/-- With `protoOfCode_protoCode`: only a protocol's own code selects it (30_encoding.md R71). -/
theorem protoCode_of_protoOfCode {c : BitVec 4} {p : Proto} (h : protoOfCode c = some p) : protoCode p = c := by
  unfold protoOfCode at h
  split at h <;> cases h <;> exact BitVec.eq_of_toNat_eq (Eq.symm ‹c.toNat = _›)

/-! ### Decode and encode -/

open Laws.EncodingFields in
theorem encodingFields : ∀ i : Instr, Statement i
  | .fitEth => fitEth | .fitVlan => fitVlan | .fitIp4 => fitIp4 | .fitIp6 => fitIp6
  | .fitIp6ext => fitIp6ext | .fitTcp => fitTcp | .fitUdp => fitUdp
  | .extEth => extEth | .extVlan => extVlan | .extIp4 => extIp4 | .extIp6 => extIp6
  | .extIp6ext => extIp6ext | .extTcp => extTcp | .extUdp => extUdp

/-- The word of the command of an OP bit and a protocol (30_encoding.md R70, R72). -/
theorem encode_of_fields (op : Bool) (p : Proto) :
    encode (if op then extractorOf p else fitCheckOf p) = 0#27 ++ BitVec.ofBool op ++ protoCode p := by
  cases op <;> cases p <;> rfl

theorem decode_encode (i : Instr) : decode (encode i) = .ok i := by
  obtain ⟨hrsvd, hop, hproto, hi⟩ := encodingFields i
  rw [decode, if_pos hrsvd, hproto, protoOfCode_protoCode, hop]
  exact congrArg Except.ok hi.symm

/-- What an accepted word looks like (30_encoding.md R73). -/
theorem fields_of_decode {w : Word} {i : Instr} (h : decode w = .ok i) :
    rsvdField w = 0#27 ∧ ∃ p, protoField w = protoCode p ∧ i = if opField w then extractorOf p else fitCheckOf p := by
  unfold decode at h
  split at h
  · rename_i hrsvd
    split at h
    · rename_i p hp
      injection h with hi
      exact ⟨hrsvd, p, (protoCode_of_protoOfCode hp).symm, hi.symm⟩
    · cases h
  · cases h

theorem encode_of_decode {w : Word} {i : Instr} (h : decode w = .ok i) : w = encode i := by
  obtain ⟨hrsvd, p, hproto, rfl⟩ := fields_of_decode h
  calc w = rsvdField w ++ BitVec.ofBool (opField w) ++ protoField w := word_eq_append_fields w
    _ = 0#27 ++ BitVec.ofBool (opField w) ++ protoCode p := by rw [hrsvd, hproto]
    _ = encode (if opField w then extractorOf p else fitCheckOf p) := (encode_of_fields (opField w) p).symm

theorem decode_eq_ok_iff {w : Word} {i : Instr} : decode w = .ok i ↔ w = encode i :=
  ⟨encode_of_decode, fun h => h ▸ decode_encode i⟩

/-! ### The opcode map -/

/-- The rows of 30_encoding.md R74. -/
def opcodeMap : List (Instr × Word) :=
  [(.fitEth, 0x00), (.fitVlan, 0x01), (.fitIp4, 0x02), (.fitIp6, 0x03), (.fitIp6ext, 0x04), (.fitTcp, 0x05),
    (.fitUdp, 0x06), (.extEth, 0x10), (.extVlan, 0x11), (.extIp4, 0x12), (.extIp6, 0x13), (.extIp6ext, 0x14),
    (.extTcp, 0x15), (.extUdp, 0x16)]

/-- The map is the graph of `encode`: each row's word is its command's, and each command has a row. -/
theorem mem_opcodeMap_iff {w : Word} {i : Instr} : (i, w) ∈ opcodeMap ↔ w = encode i := by
  have rows_encode : ∀ row ∈ opcodeMap, row.2 = encode row.1 := by decide
  have has_row : (i, encode i) ∈ opcodeMap := by cases i <;> decide
  exact ⟨rows_encode (i, w), fun h => h ▸ has_row⟩

/-- Settles O2: the decoder accepts exactly the words `encode` gives, and the fourteen rows are the graph of `encode`. -/
theorem decodeIsTheOpcodeMap : Obligations.DecodeIsTheOpcodeMap :=
  fun _ _ => decode_eq_ok_iff.trans mem_opcodeMap_iff.symm

namespace Machine

/-! ### The tag codes -/

/-- With `tagOfCode_tagCode`: the caller reads a tag from its own code only (30_encoding.md R75). -/
theorem tagCode_of_tagOfCode {c : Byte} {tag : Tag} (h : tagOfCode c = some tag) : tagCode tag = c := by
  unfold tagOfCode at h
  split at h <;> cases h <;> exact BitVec.eq_of_toNat_eq (Eq.symm ‹c.toNat = _›)

theorem tagOfCode_eq_some_iff {c : Byte} {tag : Tag} : tagOfCode c = some tag ↔ tagCode tag = c :=
  ⟨tagCode_of_tagOfCode, fun h => h ▸ tagOfCode_tagCode tag⟩

/-- A command writes RESULT only as the result word of a tag (10_state.md R28, 30_encoding.md R76). -/
theorem exec_result {i : Instr} {s t : State} (h : exec i s = .next t) :
    t.result = s.result ∨ ∃ tag len, len ≤ 2048 ∧ t.result = resultWord tag len := by
  rcases exec_cases h with ⟨_, rfl⟩ | ⟨_, _, rfl⟩ | ⟨_, _, _, _, tag, len, hlen, rfl⟩ | ⟨_, _, _, rfl⟩ |
    ⟨_, _, _, _, rfl⟩
  · exact .inl rfl
  · exact .inl (completeFit_result s _ _)
  · exact .inr ⟨tag, len, hlen, completeExtract_result s _ tag len _⟩
  · exact .inl (raiseFault_result s .oob _)
  · exact .inl (raiseFault_result s .addrRange _)

/-- Settles O57: both directions of the table come down to `tagCode`, and a changed RESULT holds a tag's code. -/
theorem tagCodesAreTheTable : Obligations.TagCodesAreTheTable := by
  refine ⟨fun tag c => ⟨tagHasCode_iff.symm, tagOfCode_eq_some_iff.trans tagHasCode_iff.symm⟩, ?_⟩
  intro i s t h hchanged
  obtain ⟨tag, len, _, hres⟩ := (exec_result h).resolve_left hchanged
  rw [hres, resultWord_tag]
  exact tagCode_le tag

end Machine

end Sys2Proof
end

section
/-! The fit checks and what commands leave alone: a fit check answers the first test of `Fetch` and writes CMD and FIT, an
extractor whose header fits has no cause left but ADDR_RANGE, and no command writes what the host sets (40_fit.md). -/

namespace Sys2Proof.Machine

/-! ### The commands of a protocol -/

@[simp] theorem isExtractor_fitCheckOf (p : Proto) : isExtractor (fitCheckOf p) = false := by cases p <;> rfl

@[simp] theorem isExtractor_extractorOf (p : Proto) : isExtractor (extractorOf p) = true := by cases p <;> rfl

@[simp] theorem protoOf_fitCheckOf (p : Proto) : protoOf (fitCheckOf p) = p := by cases p <;> rfl

@[simp] theorem protoOf_extractorOf (p : Proto) : protoOf (extractorOf p) = p := by cases p <;> rfl

/-! ### The fit checks -/

theorem fits_iff {off n len : Nat} : fits off n len = true ↔ off + n ≤ len := decide_eq_true_iff

/-- A fit check always completes outside the fault state (40_fit.md R90). -/
theorem exec_fitCheck_running {i : Instr} {s : State} (hi : isExtractor i = false) (hs : faulted s = false) :
    exec i s = .next (completeFit (encode i) (fits s.offset.toNat (fixedSize (protoOf i)) s.bufLen.toNat) s) := by
  rcases exec_shape i s with ⟨_, hexec⟩ | ⟨hx, _⟩
  · rw [hexec, fitCheck_running _ _ hs]
  · rw [hi] at hx; cases hx

theorem completeFit_fits (w : Word) (n : Nat) (s : State) :
    completeFit w (fits s.offset.toNat n s.bufLen.toNat) s =
      { s with cmd := w, fit := if s.offset.toNat + n ≤ s.bufLen.toNat then 1 else 0 } := by
  simp only [completeFit, fitWord_eq, fits_iff]

/-- The commands, sizes and words of 40_fit.md R91 to R97. -/
def fitTable : List (Instr × Nat × Word) :=
  [(.fitEth, 14, 0x00000000), (.fitVlan, 4, 0x00000001), (.fitIp4, 20, 0x00000002), (.fitIp6, 40, 0x00000003),
    (.fitIp6ext, 4, 0x00000004), (.fitTcp, 20, 0x00000005), (.fitUdp, 8, 0x00000006)]

/-- Each row of the table is a fit check with its protocol's fixed size and its own word. -/
theorem of_mem_fitTable {i : Instr} {n : Nat} {w : Word} (h : (i, n, w) ∈ fitTable) :
    isExtractor i = false ∧ n = fixedSize (protoOf i) ∧ w = encode i := by
  have rows : ∀ row ∈ fitTable,
      isExtractor row.1 = false ∧ row.2.1 = fixedSize (protoOf row.1) ∧ row.2.2 = encode row.1 := by decide
  exact rows _ h

/-- Settles O16: each row is a fit check of its fixed size, and a fit check completes with the bound as its answer. -/
theorem fitChecksAnswerTheBound : Obligations.FitChecksAnswerTheBound := by
  intro i n w hrow s hs
  obtain ⟨hi, rfl, rfl⟩ := of_mem_fitTable hrow
  rw [exec_fitCheck_running hi hs, completeFit_fits]

/-! ### A fit check and the extractor of its protocol -/

/-- The answer of a fit check is the first test of `Fetch` (40_fit.md R98). -/
theorem fitsField_after_fitCheck {i : Instr} {s t : State} (hi : isExtractor i = false) (hs : faulted s = false)
    (h : exec i s = .next t) : fitsField t = true ↔ HeaderFits (protoOf i) s := by
  rw [exec_fitCheck_running hi hs] at h
  injection h with h
  rw [← h, fitsField_completeFit, fits_iff]

/-- Where the header fits, an extractor completes, which leaves CAUSE alone, or raises ADDR_RANGE. -/
theorem extractor_cause_of_headerFits {i : Instr} {u v : State} (hi : isExtractor i = true) (hu : u.status = 0)
    (hfits : HeaderFits (protoOf i) u) (h : exec i u = .next v) :
    causeField v = 0 ∨ (causeField v = 3 ∧ ¬HeaderReadable (protoOf i) u) := by
  have hcause : causeField u = 0 := by rw [causeField, hu]; decide
  rcases exec_cases h with ⟨_, rfl⟩ | ⟨_, hx, _⟩ | ⟨_, _, _, _, _, _, _, rfl⟩ | ⟨_, _, hunfit, _⟩ |
    ⟨_, _, _, hread, rfl⟩
  · exact .inl hcause
  · rw [hi] at hx; cases hx
  · exact .inl hcause
  · exact absurd hfits hunfit
  · exact .inr ⟨causeField_raiseFault u .addrRange _, hread⟩

/-- Settles O17: the answer depends on OFFSET and BUF_LEN alone, so it still holds of the later state; a header that fits
and is not readable puts the end of the buffer past packet memory. -/
theorem fitAgreesWithExtractor : Obligations.FitAgreesWithExtractor := by
  intro p s t hs ht
  have hanswer : fitsField t = true ↔ HeaderFits p s := by
    simpa using fitsField_after_fitCheck (isExtractor_fitCheckOf p) hs ht
  refine ⟨by rw [hanswer, ne_eq, fetch_oob_iff, not_not], fun u v hpos hu hoff hlen hv => ?_⟩
  have hfits : HeaderFits p u := by
    rw [HeaderFits, hoff, hlen]
    exact hanswer.1 hpos
  rcases extractor_cause_of_headerFits (isExtractor_extractorOf p) hu (by simpa using hfits) hv with
    hnone | ⟨hrange, hread⟩
  · exact ⟨by rw [hnone]; decide, fun hrange => absurd (hnone.symm.trans hrange) (by decide)⟩
  · rw [protoOf_extractorOf] at hread
    exact ⟨by rw [hrange]; decide, fun _ => by omega⟩

/-! ### What a command leaves alone -/

/-- A command changes no more than the CMD write of its word. -/
theorem exec_frame {i : Instr} {s t : State} (h : exec i s = .next t) :
    t = { s with cmd := t.cmd, status := t.status, result := t.result, fit := t.fit, faultCmd := t.faultCmd,
                 hdr := t.hdr, draws := t.draws } :=
  writeCmd_frame (w := encode i) (by rw [writeCmd, decode_encode]; exact h)

/-- FIT is written by fit checks only (10_state.md R29). -/
theorem exec_extractor_fit {i : Instr} {s t : State} (hi : isExtractor i = true) (h : exec i s = .next t) :
    t.fit = s.fit := by
  rcases exec_cases h with ⟨_, rfl⟩ | ⟨_, hx, _⟩ | ⟨_, _, _, _, tag, len, _, rfl⟩ | ⟨_, _, _, rfl⟩ | ⟨_, _, _, _, rfl⟩
  · rfl
  · rw [hi] at hx; cases hx
  · exact completeExtract_fit s _ tag len _
  · exact raiseFault_fit s .oob _
  · exact raiseFault_fit s .addrRange _

/-- A fit check writes CMD and FIT only, and in the fault state neither (40_fit.md R90, 60_exceptions.md R206). -/
theorem exec_fitCheck_frame {i : Instr} {s t : State} (hi : isExtractor i = false) (h : exec i s = .next t) :
    t = { s with cmd := t.cmd, fit := t.fit } := by
  cases hs : faulted s with
  | true =>
    rw [exec_faulted i hs] at h
    injection h with h
    rw [h]
  | false =>
    rw [exec_fitCheck_running hi hs] at h
    injection h with h
    rw [← h]
    rfl

/-- Settles O32: each field is read off the frame of every command, of an extractor or of a fit check. -/
theorem commandsKeepTheHostsRegisters : Obligations.CommandsKeepTheHostsRegisters := by
  intro i s t h
  refine ⟨?bufBase, ?bufLen, ?offset, ?cfg, ?resetLine, ?readData, ?inbox, fun hi => exec_extractor_fit hi h,
    fun hi => ?fitCheck⟩
  case fitCheck =>
    rw [exec_fitCheck_frame hi h]
    exact ⟨rfl, rfl, rfl, rfl⟩
  all_goals rw [exec_frame h]

end Sys2Proof.Machine
end

section
/-! The extractors and the link layer: each extractor is `extract` with the rule of its protocol, which gives the tag and the
consumed length of a fetched header; a rule's tag stays in the range of its protocol's dispatch table (41_link_layer.md). -/

namespace Sys2Proof.Machine

/-! ### The rule of each protocol -/

/-- The tag and the consumed length of a fetched header (41_link_layer.md R100, R102, 42_ip.md R121, R125, R126,
43_transport.md R150, R151). `exec_extractorOf` ties it to the commands. -/
def headerRule (w : Wire) : Proto → List Byte → Tag × Nat
  | .eth, h => (ethDispatch w (ethType h), fixedSize .eth)
  | .vlan, h => (vlanDispatch w (vlanType h), fixedSize .vlan)
  | .ip4, h => (ip4Tag w h, 4 * ip4Ihl h)
  | .ip6, h => (nhDispatch w (ip6NextHeader h), fixedSize .ip6)
  | .ip6ext, h => (nhDispatch w (extNextHeader h), extLength (nhDispatch w (extNextHeader h)) h)
  | .tcp, h => (.none, 4 * tcpDataOffset h)
  | .udp, _ => (.none, fixedSize .udp)

theorem exec_extractorOf (p : Proto) (s : State) : exec (extractorOf p) s =
    extract (encode (extractorOf p)) (fixedSize p) (headerRule s.cfg.wire p) s := by cases p <;> rfl

/-- The ethertype is read big-endian from bytes 12 and 13 (20_memory.md R51, 30_encoding.md R84). -/
theorem headerRule_eth (w : Wire) (h : List Byte) :
    headerRule w .eth h = (ethDispatch w (h.getD 12 0 ++ h.getD 13 0), 14) := rfl

/-- The inner ethertype is read big-endian from bytes 2 and 3 (20_memory.md R51, 30_encoding.md R84). -/
theorem headerRule_vlan (w : Wire) (h : List Byte) :
    headerRule w .vlan h = (vlanDispatch w (h.getD 2 0 ++ h.getD 3 0), 4) := rfl

/-! ### What an extractor does outside the fault state -/

theorem exec_extractorOf_completes {p : Proto} {s : State} (hs : faulted s = false) (hfits : HeaderFits p s)
    (hread : HeaderReadable p s) : exec (extractorOf p) s =
      .next (completeExtract (encode (extractorOf p)) (headerRule s.cfg.wire p (headerOf p s)).1
        (headerRule s.cfg.wire p (headerOf p s)).2 (headerOf p s) s) := by
  rw [exec_extractorOf, extract_completes _ _ hs hfits hread]
  rfl

/-- A completing extractor follows the rule of its protocol on the header it fetched. -/
theorem exec_extractorOf_extracted {p : Proto} {s : State} {tag : Tag} {len : Nat} (hs : faulted s = false)
    (hfits : HeaderFits p s) (hread : HeaderReadable p s)
    (hrule : headerRule s.cfg.wire p (headerOf p s) = (tag, len)) (hlen : len ≤ 2048) :
    ∃ t, exec (extractorOf p) s = .next t ∧ Extracted (extractorOf p) tag len s t := by
  refine ⟨completeExtract (encode (extractorOf p)) tag len (headerOf p s) s, ?completes, ?extracted⟩
  case completes => rw [exec_extractorOf_completes hs hfits hread, hrule]
  case extracted => simpa using completeExtract_extracted (i := extractorOf p) (tag := tag) s hlen

/-- The two faults of `Fetch` are the same for every extractor (60_exceptions.md R202, R203). -/
theorem extractor_faultsOutOfRange {i : Instr} {s : State} (hi : isExtractor i = true) (hs : faulted s = false) :
    FaultsOutOfRange i s := by
  obtain ⟨hx, _⟩ | ⟨_, rule, _, hexec⟩ := exec_shape i s
  · rw [hi] at hx; cases hx
  · rw [FaultsOutOfRange, hexec]
    constructor
    · intro hunfit
      rw [extract_oob _ _ hs hunfit, raiseFault_eq_faultEntered, faultStatus_oob]
    · intro hfits hunread
      rw [extract_addrRange _ _ hs hfits hunread, raiseFault_eq_faultEntered, faultStatus_addrRange]

/-! ### The link-layer extractors -/

/-- Settles O18: EXT.ETH completes by the Ethernet rule and faults as every extractor does. -/
theorem extEthExtracts : Obligations.ExtEthExtracts := fun s hs =>
  ⟨fun hfits hread => exec_extractorOf_extracted (p := .eth) hs hfits hread (headerRule_eth _ _) (by decide),
    extractor_faultsOutOfRange rfl hs⟩

/-- Settles O19: EXT.VLAN completes by the VLAN rule and faults as every extractor does. -/
theorem extVlanExtracts : Obligations.ExtVlanExtracts := fun s hs =>
  ⟨fun hfits hread => exec_extractorOf_extracted (p := .vlan) hs hfits hread (headerRule_vlan _ _) (by decide),
    extractor_faultsOutOfRange rfl hs⟩

/-! ### The link-layer tables with the standard constants -/

theorem ethDispatch_standard (e : Half) : ethDispatch Wire.standard e =
    if e = 0x0800 then .ipv4 else if e = 0x8100 then .vlan else if e = 0x86DD then .ipv6 else .unknown := rfl

theorem vlanDispatch_standard (e : Half) : vlanDispatch Wire.standard e =
    if e = 0x0800 then .ipv4 else if e = 0x86DD then .ipv6 else .unknown := rfl

/-- Settles O25: a second tag is UNKNOWN because 0x8100 is neither of the two rows of the VLAN table (R105). -/
theorem linkDispatchTables : Obligations.LinkDispatchTables :=
  ⟨ethDispatch_standard, vlanDispatch_standard, (vlanDispatch_standard 0x8100).trans (by decide)⟩

/-! ### The tags each extractor can produce -/

/-- The tags of `nh_dispatch` (42_ip.md R124, R129). -/
def nhTags : List Tag := [.tcp, .udp, .ip6Hbh, .ip6Routing, .ip6Frag, .none, .ip6Dstopt, .unknown]

/-- The tags the extractor of a protocol can produce (41_link_layer.md R104, 42_ip.md R129, 43_transport.md R152). -/
def tagRange : Proto → List Tag
  | .eth => [.ipv4, .vlan, .ipv6, .unknown]
  | .vlan => [.ipv4, .ipv6, .unknown]
  | .ip4 => [.tcp, .udp, .unknown]
  | .ip6 => nhTags
  | .ip6ext => nhTags
  | .tcp => [.none]
  | .udp => [.none]

theorem ethDispatch_mem (w : Wire) (e : Half) : ethDispatch w e ∈ tagRange .eth := by
  unfold ethDispatch
  split_ifs <;> decide

theorem vlanDispatch_mem (w : Wire) (e : Half) : vlanDispatch w e ∈ tagRange .vlan := by
  unfold vlanDispatch
  split_ifs <;> decide

theorem ip4Dispatch_mem (w : Wire) (b : Byte) : ip4Dispatch w b ∈ tagRange .ip4 := by
  unfold ip4Dispatch
  split_ifs <;> decide

/-- The MF override of 42_ip.md R122 stays in the range of the table. -/
theorem ip4Tag_mem (w : Wire) (h : List Byte) : ip4Tag w h ∈ tagRange .ip4 := by
  unfold ip4Tag
  split
  · decide
  · exact ip4Dispatch_mem w _

theorem nhDispatch_mem (w : Wire) (b : Byte) : nhDispatch w b ∈ nhTags := by
  unfold nhDispatch
  split_ifs <;> decide

theorem headerRule_tag_mem (w : Wire) (p : Proto) (h : List Byte) : (headerRule w p h).1 ∈ tagRange p := by
  cases p with
  | eth => exact ethDispatch_mem w _
  | vlan => exact vlanDispatch_mem w _
  | ip4 => exact ip4Tag_mem w h
  | ip6 | ip6ext => exact nhDispatch_mem w _
  | tcp | udp => exact List.mem_singleton_self _

/-- RESULT.TAG after an extractor has completed, for any wire constants. -/
theorem exec_extractorOf_tag {p : Proto} {s t : State} (hs : faulted s = false) (hfits : HeaderFits p s)
    (hread : HeaderReadable p s) (h : exec (extractorOf p) s = .next t) :
    ∃ tag ∈ tagRange p, TagHasCode tag (t.result.extractLsb' 16 8) := by
  rw [exec_extractorOf_completes hs hfits hread] at h
  injection h with h
  refine ⟨_, headerRule_tag_mem s.cfg.wire p (headerOf p s), tagHasCode_iff.2 ?_⟩
  rw [← h, completeExtract_result, resultWord_tag]

/-- One next header for each tag of the range; 58, ICMPv6, is in no row of the table. -/
theorem nhDispatch_standard_surjOn : ∀ tag ∈ nhTags, ∃ b : Byte, nhDispatch Wire.standard b = tag := by
  simp only [nhTags, List.forall_mem_cons]
  exact ⟨⟨6, rfl⟩, ⟨17, rfl⟩, ⟨0, rfl⟩, ⟨43, rfl⟩, ⟨44, rfl⟩, ⟨59, rfl⟩, ⟨60, rfl⟩, ⟨58, rfl⟩, List.forall_mem_nil _⟩

/-- The rows of 41_link_layer.md R104, 42_ip.md R129 and 43_transport.md R152. -/
def tagTable : List (Instr × List Tag) :=
  [(.extEth, [.ipv4, .vlan, .ipv6, .unknown]), (.extVlan, [.ipv4, .ipv6, .unknown]), (.extIp4, [.tcp, .udp, .unknown]),
    (.extIp6, nhTags), (.extIp6ext, nhTags), (.extTcp, [.none]), (.extUdp, [.none])]

/-- Each row of the table is an extractor with the range of its protocol. -/
theorem of_mem_tagTable {i : Instr} {tags : List Tag} (h : (i, tags) ∈ tagTable) :
    i = extractorOf (protoOf i) ∧ tags = tagRange (protoOf i) := by
  have rows : ∀ row ∈ tagTable, row.1 = extractorOf (protoOf row.1) ∧ row.2 = tagRange (protoOf row.1) := by decide
  exact rows _ h

/-- Settles O30: a completing extractor writes the tag of its protocol's rule, which stays in that protocol's range. -/
theorem extractorsProduceOnlyTheirTags : Obligations.ExtractorsProduceOnlyTheirTags := by
  refine ⟨fun i tags hrow s t hs hfits hread h => ?_, nhDispatch_standard_surjOn⟩
  obtain ⟨hi, rfl⟩ := of_mem_tagTable hrow
  rw [hi] at h
  exact exec_extractorOf_tag hs hfits hread h

end Sys2Proof.Machine
end

section
/-! The network layer: the rules of the three IP extractors on the bytes of a header, their tables with the standard
constants, and the length of an IPv6 extension header, which is keyed on the tag of the header after it (42_ip.md). -/

namespace Sys2Proof.Machine

/-! ### The tables with the standard constants -/

theorem ip4Dispatch_standard (b : Byte) : ip4Dispatch Wire.standard b =
    if b = 6 then .tcp else if b = 17 then .udp else .unknown := rfl

theorem nhDispatch_standard (b : Byte) : nhDispatch Wire.standard b =
    if b = 6 then .tcp else if b = 17 then .udp else if b = 0 then .ip6Hbh else if b = 43 then .ip6Routing
    else if b = 44 then .ip6Frag else if b = 59 then .none else if b = 60 then .ip6Dstopt else .unknown := rfl

/-- Settles O26: the rows of both tables compare with the constants of the standard record. -/
theorem networkDispatchTables : Obligations.NetworkDispatchTables :=
  ⟨ip4Dispatch_standard, nhDispatch_standard⟩

/-- 44 is the one next header of the fragment row: no earlier row holds it, and no other row gives its tag. -/
theorem nhDispatch_standard_eq_ip6Frag {b : Byte} : nhDispatch Wire.standard b = .ip6Frag ↔ b = 44 := by
  constructor
  · contrapose!
    intro hne
    rw [nhDispatch_standard, if_neg hne]
    split_ifs <;> decide
  · rintro rfl
    rfl

/-! ### The rules on the bytes of a header -/

/-- MF is bit 5 of byte 6, the protocol byte 9, IHL the low half of byte 0 (30_encoding.md R84, 42_ip.md R121). -/
theorem headerRule_ip4 (w : Wire) (h : List Byte) :
    headerRule w .ip4 h = (if (h.getD 6 0).getLsbD 5 then .unknown else ip4Dispatch w (h.getD 9 0),
      4 * ((h.getD 0 0).extractLsb' 0 4).toNat) := rfl

/-- The next header is byte 6 (30_encoding.md R84, 42_ip.md R125). -/
theorem headerRule_ip6 (w : Wire) (h : List Byte) : headerRule w .ip6 h = (nhDispatch w (h.getD 6 0), 40) := rfl

/-- The next header is byte 0, the length field byte 1 (30_encoding.md R84, 42_ip.md R126, R127). -/
theorem headerRule_ip6ext (w : Wire) (h : List Byte) :
    headerRule w .ip6ext h = (nhDispatch w (h.getD 0 0),
      if nhDispatch w (h.getD 0 0) = .ip6Frag then 8 else 8 + 8 * (h.getD 1 0).toNat) := rfl

/-! ### The network-layer extractors -/

/-- The largest IHL is 15, so EXT.IP4 consumes at most 60 bytes (42_ip.md R123). -/
theorem ip4Length_le (h : List Byte) : 4 * ip4Ihl h ≤ 2048 := by
  have := ip4Ihl_le h
  omega

/-- Settles O20: EXT.IP4 completes by the IPv4 rule and faults as every extractor does. -/
theorem extIp4Extracts : Obligations.ExtIp4Extracts := fun _ hs =>
  ⟨fun hfits hread => exec_extractorOf_extracted (p := .ip4) hs hfits hread (headerRule_ip4 _ _)
      (ip4Length_le _),
    extractor_faultsOutOfRange rfl hs⟩

/-- Settles O21: EXT.IP6 completes by the IPv6 rule and faults as every extractor does. -/
theorem extIp6Extracts : Obligations.ExtIp6Extracts := fun s hs =>
  ⟨fun hfits hread => exec_extractorOf_extracted (p := .ip6) hs hfits hread (headerRule_ip6 _ _) (by decide),
    extractor_faultsOutOfRange rfl hs⟩

/-- Settles O22: EXT.IP6EXT completes by the extension rule, with only the probe fetched, and faults as every extractor
does. -/
theorem extIp6extExtracts : Obligations.ExtIp6extExtracts := fun s hs =>
  ⟨fun hfits hread => exec_extractorOf_extracted (p := .ip6ext) hs hfits hread (headerRule_ip6ext _ _)
      (extLength_bounds _ (headerOf .ip6ext s)).2.1,
    extractor_faultsOutOfRange rfl hs⟩

/-! ### The length of an extension header -/

/-- Settles O28: the length of O22 with the one next header that the standard table sends to the fragment tag. -/
theorem extensionLengthKeyedOnResolvedTag : Obligations.ExtensionLengthKeyedOnResolvedTag := by
  intro s hwire hs hfits hread
  obtain ⟨t, hexec, hext⟩ := (extIp6extExtracts s hs).1 hfits hread
  have hlen : resultLenField t =
      extLength (nhDispatch s.cfg.wire ((headerOf .ip6ext s).getD 0 0)) (headerOf .ip6ext s) := hext.len
  refine ⟨t, hexec, fun hfrag => ?frag, fun hother => ?other, ?bounds⟩
  case frag =>
    rw [hlen, hwire, nhDispatch_standard_eq_ip6Frag.2 hfrag]
    rfl
  case other =>
    rw [hlen, hwire, extLength, if_neg fun h => hother (nhDispatch_standard_eq_ip6Frag.1 h)]
    rfl
  case bounds =>
    rw [hlen]
    exact extLength_bounds _ _

end Sys2Proof.Machine
end

section
/-! The transport layer: the rules of EXT.TCP and EXT.UDP, which end the chain of headers with the tag NONE
(43_transport.md). -/

namespace Sys2Proof.Machine

/-! ### The rules on the bytes of a header -/

/-- The data offset is the high half of byte 12 (30_encoding.md R84, 43_transport.md R150). -/
theorem headerRule_tcp (w : Wire) (h : List Byte) :
    headerRule w .tcp h = (.none, 4 * ((h.getD 12 0).extractLsb' 4 4).toNat) := rfl

/-- No byte of the header enters the rule: the UDP length field is copied and never used (43_transport.md R151). -/
theorem headerRule_udp (w : Wire) (h : List Byte) : headerRule w .udp h = (.none, 8) := rfl

/-! ### The transport-layer extractors -/

/-- The largest data offset is 15, so EXT.TCP consumes at most 60 bytes (43_transport.md R150). -/
theorem tcpLength_le (h : List Byte) : 4 * tcpDataOffset h ≤ 2048 := by
  have := tcpDataOffset_le h
  omega

/-- Settles O23: EXT.TCP completes by the TCP rule and faults as every extractor does. -/
theorem extTcpExtracts : Obligations.ExtTcpExtracts := fun _ hs =>
  ⟨fun hfits hread => exec_extractorOf_extracted (p := .tcp) hs hfits hread (headerRule_tcp _ _)
      (tcpLength_le _),
    extractor_faultsOutOfRange rfl hs⟩

/-- Settles O24: EXT.UDP completes by the UDP rule and faults as every extractor does. -/
theorem extUdpExtracts : Obligations.ExtUdpExtracts := fun _ hs =>
  ⟨fun hfits hread => exec_extractorOf_extracted (p := .udp) hs hfits hread (headerRule_udp _ _) (by decide),
    extractor_faultsOutOfRange rfl hs⟩

end Sys2Proof.Machine
end

section
/-! The parse state machine: the next state of each tag, and its edges. An edge of a parse state is the next state of a tag in
the range of its protocol, and every such tag is the one of some header in packet memory (44_parser_fsm.md R173, R176). -/

namespace Sys2Proof.Machine

/-- Settles O51: the model's table, row by row. -/
theorem nextStateTable : Obligations.NextStateTable :=
  ⟨rfl, rfl, rfl, rfl, rfl, rfl, rfl, rfl, rfl, rfl, rfl⟩

/-! ### The edges as next states of tags -/

/-- The rows of 44_parser_fsm.md R176; the terminal states have none. -/
def parseEdges : List (ParseState × ParseState) :=
  [(.eth, .ipv4), (.eth, .vlan), (.eth, .ipv6), (.eth, .endUnknown),
    (.vlan, .ipv4), (.vlan, .ipv6), (.vlan, .endUnknown),
    (.ipv4, .tcp), (.ipv4, .udp), (.ipv4, .endUnknown),
    (.ipv6, .tcp), (.ipv6, .udp), (.ipv6, .ipv6Ext), (.ipv6, .endNone), (.ipv6, .endUnknown),
    (.ipv6Ext, .tcp), (.ipv6Ext, .udp), (.ipv6Ext, .ipv6Ext), (.ipv6Ext, .endNone), (.ipv6Ext, .endUnknown),
    (.tcp, .endNone), (.udp, .endNone)]

theorem nextState_mem_parseEdges {S : ParseState} {p : Proto} {tag : Tag} (hp : parseProto S = some p)
    (htag : tag ∈ tagRange p) : (S, nextState tag) ∈ parseEdges := by
  have row : ∀ tag ∈ tagRange p, (S, nextState tag) ∈ parseEdges := by
    cases S <;> cases hp <;> decide
  exact row tag htag

theorem exists_tag_of_mem_parseEdges {S S' : ParseState} (h : (S, S') ∈ parseEdges) :
    ∃ p ∈ parseProto S, ∃ tag ∈ tagRange p, nextState tag = S' := by
  have rows : ∀ e ∈ parseEdges, ∃ p ∈ parseProto e.1, ∃ tag ∈ tagRange p, nextState tag = e.2 := by decide
  exact rows _ h

/-! ### The tag a completing extractor leaves in RESULT -/

/-- With `headerRule_tag_mem` and `headerRule_standard_surjOn`, the tags of a protocol are exactly its range. -/
theorem tagHasCode_result_iff {p : Proto} {s t : State} {tag : Tag} (hs : faulted s = false) (hfits : HeaderFits p s)
    (hread : HeaderReadable p s) (h : exec (extractorOf p) s = .next t) :
    TagHasCode tag (t.result.extractLsb' 16 8) ↔ (headerRule s.cfg.wire p (headerOf p s)).1 = tag := by
  rw [exec_extractorOf_completes hs hfits hread] at h
  injection h with h
  rw [← h, completeExtract_result, resultWord_tag, tagHasCode_iff, ← tagOfCode_eq_some_iff, tagOfCode_tagCode,
    Option.some_inj]

/-! ### A header for each tag of the range -/

/-- One ethertype for each tag of the range, as its two bytes; 0x0806, ARP, is in no row of the table. -/
theorem ethDispatch_standard_surjOn :
    ∀ tag ∈ tagRange .eth, ∃ hi lo : Byte, ethDispatch Wire.standard (hi ++ lo) = tag := by
  simp only [tagRange, List.forall_mem_cons]
  exact ⟨⟨0x08, 0x00, rfl⟩, ⟨0x81, 0x00, rfl⟩, ⟨0x86, 0xDD, rfl⟩, ⟨0x08, 0x06, rfl⟩, List.forall_mem_nil _⟩

/-- A second 802.1Q tag, 0x8100, is one of the UNKNOWN ethertypes (41_link_layer.md R105). -/
theorem vlanDispatch_standard_surjOn :
    ∀ tag ∈ tagRange .vlan, ∃ hi lo : Byte, vlanDispatch Wire.standard (hi ++ lo) = tag := by
  simp only [tagRange, List.forall_mem_cons]
  exact ⟨⟨0x08, 0x00, rfl⟩, ⟨0x86, 0xDD, rfl⟩, ⟨0x81, 0x00, rfl⟩, List.forall_mem_nil _⟩

/-- One protocol number for each tag of the range; 47, GRE, is in no row of the table. -/
theorem ip4Dispatch_standard_surjOn : ∀ tag ∈ tagRange .ip4, ∃ b : Byte, ip4Dispatch Wire.standard b = tag := by
  simp only [tagRange, List.forall_mem_cons]
  exact ⟨⟨6, rfl⟩, ⟨17, rfl⟩, ⟨47, rfl⟩, List.forall_mem_nil _⟩

/-- The header is zeros but for its dispatch field: the last two bytes of a link-layer header, one byte of an IP header. -/
theorem headerRule_standard_surjOn {p : Proto} {tag : Tag} (htag : tag ∈ tagRange p) :
    ∃ h : List Byte, h.length = fixedSize p ∧ (headerRule Wire.standard p h).1 = tag := by
  cases p with
  | eth =>
    obtain ⟨hi, lo, rfl⟩ := ethDispatch_standard_surjOn tag htag
    exact ⟨List.replicate 12 0 ++ [hi, lo], rfl, by simp [headerRule_eth]⟩
  | vlan =>
    obtain ⟨hi, lo, rfl⟩ := vlanDispatch_standard_surjOn tag htag
    exact ⟨List.replicate 2 0 ++ [hi, lo], rfl, by simp [headerRule_vlan]⟩
  | ip4 =>
    obtain ⟨b, rfl⟩ := ip4Dispatch_standard_surjOn tag htag
    exact ⟨(List.replicate 20 0).set 9 b, rfl, by simp [headerRule_ip4]⟩
  | ip6 =>
    obtain ⟨b, rfl⟩ := nhDispatch_standard_surjOn tag htag
    exact ⟨(List.replicate 40 0).set 6 b, rfl, by simp [headerRule_ip6]⟩
  | ip6ext =>
    obtain ⟨b, rfl⟩ := nhDispatch_standard_surjOn tag htag
    exact ⟨(List.replicate 4 0).set 0 b, rfl, by simp [headerRule_ip6ext]⟩
  | tcp => exact ⟨List.replicate 20 0, rfl, (List.mem_singleton.1 htag).symm⟩
  | udp => exact ⟨List.replicate 8 0, rfl, (List.mem_singleton.1 htag).symm⟩

/-! ### A state whose buffer is a given header -/

/-- In a canonical memory every listed byte is the one that is read: its address is listed once. -/
theorem Memory.read?_of_mem {m : Memory} {a : Nat} {b : Byte} (hwf : Memory.wf m = true) (h : (a, b) ∈ m) :
    Memory.read? m a = some b := by
  rw [Memory.wf_iff_pairwise] at hwf
  induction m with
  | nil => cases h
  | cons c m ih =>
    obtain ⟨hlt, hm⟩ := List.pairwise_cons.1 hwf
    rcases List.mem_cons.1 h with rfl | h
    · exact if_pos rfl
    · rw [Memory.read?, if_neg (hlt _ h).ne]
      exact ih hm h

/-- After reset, with a buffer at address 0 that the platform has filled with exactly these bytes. -/
def bufferOf (h : List Byte) : State :=
  { State.reset with
    bufLen := BitVec.ofNat 32 h.length
    mem := (List.range h.length).map fun i => (i, h.getD i 0) }

@[simp] theorem bufferOf_status (h : List Byte) : (bufferOf h).status = 0 := rfl

@[simp] theorem bufferOf_result (h : List Byte) : (bufferOf h).result = 0 := rfl

theorem bufferOf_headerAddress (h : List Byte) : (bufferOf h).bufBase.toNat + (bufferOf h).offset.toNat = 0 := rfl

theorem bufferOf_running (h : List Byte) : faulted (bufferOf h) = false := by simp [faulted]

section
variable {p : Proto} {h : List Byte}

theorem bufferOf_bufLen (hlen : h.length = fixedSize p) : (bufferOf h).bufLen.toNat = fixedSize p := by
  show (BitVec.ofNat 32 h.length).toNat = fixedSize p
  rw [hlen]
  cases p <;> rfl

theorem bufferOf_headerFits (hlen : h.length = fixedSize p) : HeaderFits p (bufferOf h) := by
  rw [HeaderFits, bufferOf_bufLen hlen]
  exact (Nat.zero_add (fixedSize p)).le

theorem bufferOf_headerReadable (p : Proto) (h : List Byte) : HeaderReadable p (bufferOf h) := by
  show 0 + 0 + fixedSize p ≤ 2 ^ 32
  cases p <;> decide

theorem bufferOf_mem_wf (h : List Byte) : Memory.wf (bufferOf h).mem = true :=
  (Memory.wf_iff_pairwise _).2 (List.pairwise_map.2 List.pairwise_lt_range)

theorem bufferOf_inv (hlen : h.length = fixedSize p) : Inv (bufferOf h) where
  cfg := (by decide : Config.standard.wf = true)
  bufBase := Nat.two_pow_pos 32
  bufLen := by
    rw [bufferOf_bufLen hlen]
    show fixedSize p < 2 ^ 16
    cases p <;> decide
  offset := Nat.two_pow_pos 16
  status := .inl rfl
  fit := .inl rfl
  result := by simp
  running _ := ⟨rfl, .fitEth, rfl⟩
  stuck hstatus := absurd rfl hstatus
  illegal hstatus := absurd hstatus (by simp)
  extractor hstatus := absurd hstatus (by simp)
  memWf := bufferOf_mem_wf h
  memRange := by
    intro c hc
    obtain ⟨i, hi, rfl⟩ := List.mem_map.1 hc
    have hfixed := bufferOf_headerReadable p h
    have hi := List.mem_range.1 hi
    simp only
    omega
  inFlightRange _ hc := absurd hc List.not_mem_nil
  held hline := absurd hline Bool.false_ne_true

theorem bufferOf_sampledByte {i : Nat} (hi : i < h.length) : sampledByte (bufferOf h) i = h[i] := by
  have hmem : (i, h.getD i 0) ∈ (bufferOf h).mem := List.mem_map.2 ⟨i, List.mem_range.2 hi, rfl⟩
  rw [sampledByte_quiet fun _ hc => absurd hc List.not_mem_nil, packetByte,
    Memory.read?_of_mem (bufferOf_mem_wf h) hmem, Option.getD_some, List.getD_eq_getElem _ _ hi]

theorem bufferOf_headerOf (hlen : h.length = fixedSize p) : headerOf p (bufferOf h) = h := by
  refine List.ext_getElem ((memRead_length _ _ _).trans hlen.symm) fun i _ hi => ?_
  simp [headerOf, memRead, bufferOf_headerAddress, bufferOf_sampledByte hi]

end

/-- Every tag of a protocol's range is left in RESULT by an extraction from a state with the invariant. -/
theorem exists_extraction_with_tag {p : Proto} {tag : Tag} (htag : tag ∈ tagRange p) :
    ∃ s t, Inv s ∧ s.cfg.wire = Wire.standard ∧ faulted s = false ∧ HeaderFits p s ∧ HeaderReadable p s ∧
      exec (extractorOf p) s = .next t ∧ TagHasCode tag (t.result.extractLsb' 16 8) := by
  obtain ⟨h, hlen, hrule⟩ := headerRule_standard_surjOn htag
  have hfits := bufferOf_headerFits hlen
  have hread := bufferOf_headerReadable p h
  obtain ⟨t, hexec⟩ := exec_next (extractorOf p) (bufferOf h)
  refine ⟨bufferOf h, t, bufferOf_inv hlen, rfl, bufferOf_running h, hfits, hread, hexec, ?_⟩
  rw [tagHasCode_result_iff (bufferOf_running h) hfits hread hexec, bufferOf_headerOf hlen]
  exact hrule

/-- Settles O52: the tag in RESULT is in the range of the protocol, whose next states are the row of the table; and for
each edge a buffer holding one header has the tag that leads there. -/
theorem parseEdgesAreExactlyTheTable : Obligations.ParseEdgesAreExactlyTheTable := by
  intro S S'
  constructor
  · rintro ⟨p, s, t, tag, hp, _, _, hs, hfits, hread, hexec, hcode, rfl⟩
    obtain rfl := (tagHasCode_result_iff hs hfits hread hexec).1 hcode
    exact nextState_mem_parseEdges hp (headerRule_tag_mem s.cfg.wire p (headerOf p s))
  · intro hedge
    obtain ⟨p, hp, tag, htag, hnext⟩ := exists_tag_of_mem_parseEdges hedge
    obtain ⟨s, t, hinv, hwire, hs, hfits, hread, hexec, hcode⟩ := exists_extraction_with_tag htag
    exact ⟨p, s, t, tag, hp, hinv, hwire, hs, hfits, hread, hexec, hcode, hnext⟩

end Sys2Proof.Machine
end

section
/-! The fault state: which CMD writes enter it and with which cause, what works inside it, and how a reset leaves it
(60_exceptions.md R201 to R208). -/

namespace Sys2Proof.Machine

/-! ### Words that are no command -/

theorem protoCode_toNat_le (p : Proto) : (protoCode p).toNat ≤ 6 := by cases p <;> decide

/-- The words that 60_exceptions.md R201 names are no command: an accepted word has RSVD 0 and the code of a protocol. -/
theorem decode_error_of_illegal {w : Word} (h : w.extractLsb' 5 27 ≠ 0 ∨ (w.extractLsb' 0 4).toNat > 6) :
    ∃ e, decode w = .error e := by
  cases hdec : decode w with
  | error e => exact ⟨e, rfl⟩
  | ok i =>
    obtain ⟨hrsvd, p, hproto, _⟩ := fields_of_decode hdec
    rcases h with hbits | hcode
    · exact absurd hrsvd hbits
    · change (protoField w).toNat > 6 at hcode
      rw [hproto] at hcode
      exact absurd (protoCode_toNat_le p) (Nat.not_le.2 hcode)

/-! ### A CMD write inside and outside the fault state -/

theorem writeCmd_of_decode {w : Word} {i : Instr} (s : State) (h : decode w = .ok i) : writeCmd w s = exec i s := by
  rw [writeCmd, h]

theorem writeCmd_rejected {w : Word} {s : State} {e : DecodeReject} (h : decode w = .error e)
    (hs : faulted s = false) : writeCmd w s = .next (raiseFault .illegalCmd w s) := by
  rw [writeCmd, h]
  exact issue_running hs

/-- With `exec_faulted`: an illegal word is ignored in the fault state as a command is (60_exceptions.md R206). -/
theorem writeCmd_faulted (w : Word) {s : State} (hs : faulted s = true) : writeCmd w s = .next s := by
  rcases writeCmd_cases w s with ⟨i, _, hexec⟩ | ⟨_, _, hreject⟩
  · rw [hexec, exec_faulted i hs]
  · rw [hreject]
    exact issue_faulted hs

/-- A command leaves STATUS alone or raises one fault with its own word, and only an extractor whose header is out of the
buffer or out of packet memory raises one (60_exceptions.md R202, R203, R205). -/
theorem exec_keeps_status_or_raises {i : Instr} {s t : State} (h : exec i s = .next t) :
    t.status = s.status ∨ ∃ c, t = raiseFault c (encode i) s ∧ isExtractor i = true ∧
      ¬(HeaderFits (protoOf i) s ∧ HeaderReadable (protoOf i) s) := by
  rcases exec_cases h with ⟨_, rfl⟩ | ⟨_, _, rfl⟩ | ⟨_, _, _, _, tag, len, _, rfl⟩ | ⟨_, hx, hunfit, rfl⟩ |
    ⟨_, hx, _, hunread, rfl⟩
  · exact .inl rfl
  · exact .inl (completeFit_status s _ _)
  · exact .inl (completeExtract_status s _ tag len _)
  · exact .inr ⟨.oob, rfl, hx, fun ⟨hfits, _⟩ => hunfit hfits⟩
  · exact .inr ⟨.addrRange, rfl, hx, fun ⟨_, hread⟩ => hunread hread⟩

theorem writeCmd_keeps_status_or_raises {w : Word} {s t : State} (h : writeCmd w s = .next t) :
    t.status = s.status ∨ ∃ c, t = raiseFault c w s := by
  cases hs : faulted s with
  | true =>
    rw [writeCmd_faulted w hs] at h
    injection h with h
    exact .inl (h ▸ rfl)
  | false =>
    cases hdec : decode w with
    | ok i =>
      rw [writeCmd_of_decode s hdec] at h
      rw [encode_of_decode hdec]
      exact (exec_keeps_status_or_raises h).imp_right fun ⟨c, e, _, _⟩ => ⟨c, e⟩
    | error e =>
      rw [writeCmd_rejected hdec hs] at h
      injection h with h
      exact .inr ⟨.illegalCmd, h.symm⟩

/-- A command to which neither check of `Fetch` applies leaves STATUS alone (60_exceptions.md R202, R203). -/
theorem exec_keeps_status {i : Instr} {s t : State} (h : exec i s = .next t)
    (hin : isExtractor i = false ∨ HeaderFits (protoOf i) s ∧ HeaderReadable (protoOf i) s) : t.status = s.status := by
  refine (exec_keeps_status_or_raises h).resolve_right ?_
  rintro ⟨_, _, hx, hout⟩
  rcases hin with hfit | hboth
  · rw [hx] at hfit
    cases hfit
  · exact hout hboth

/-! ### The status word -/

theorem faulted_of_status_eq {s t : State} (h : t.status = s.status) : faulted t = faulted s := by
  rw [faulted, faulted, h]

theorem faulted_of_status_zero {s : State} (h : s.status = 0) : faulted s = false := by
  rw [faulted, h]
  decide

theorem causeField_of_status_zero {s : State} (h : s.status = 0) : causeField s = 0 := by
  rw [causeField, h]
  decide

theorem causeCode_ne_zero (c : Cause) : causeCode c ≠ 0 := by cases c <;> decide

/-- The three STATUS words of the fault state (10_state.md R23, 60_exceptions.md R200). -/
theorem faultStatus_cases (c : Cause) :
    faultStatus c = 0x00000011 ∨ faultStatus c = 0x00000021 ∨ faultStatus c = 0x00000031 := by
  cases c with
  | illegalCmd => exact .inl faultStatus_illegalCmd
  | oob => exact .inr (.inl faultStatus_oob)
  | addrRange => exact .inr (.inr faultStatus_addrRange)

/-- After a CMD write from STATUS = 0 a cause is recorded exactly in the fault state (60_exceptions.md R204). -/
theorem writeCmd_faulted_iff_cause {w : Word} {s t : State} (hs : s.status = 0) (h : writeCmd w s = .next t) :
    faulted t = true ↔ causeField t ≠ 0 := by
  rcases writeCmd_keeps_status_or_raises h with hkept | ⟨c, rfl⟩
  · rw [hs] at hkept
    simp [faulted_of_status_zero hkept, causeField_of_status_zero hkept]
  · rw [causeField_raiseFault]
    exact ⟨fun _ => causeCode_ne_zero c, fun _ => faulted_raiseFault s c w⟩

/-! ### Entering the fault state -/

/-- Settles O7: such a word does not decode, and a rejected word raises ILLEGAL_CMD. -/
theorem illegalWordEntersFaultState : Obligations.IllegalWordEntersFaultState := by
  intro s w hs hr hillegal
  obtain ⟨e, hdec⟩ := decode_error_of_illegal hillegal
  rw [perform_wr .cmd w hr, writeRegister, writeCmd_rejected hdec hs, raiseFault_eq_faultEntered,
    faultStatus_illegalCmd]

/-- Settles O9: OOB is the first test of `Fetch`, and a fit check answers the same bound. -/
theorem oobFaultsBeforeReading : Obligations.OobFaultsBeforeReading := by
  intro i s hs hunfit
  refine ⟨fun hx => ?extractor, fun hx => ?fitCheck⟩
  case extractor =>
    obtain ⟨hoob, _⟩ := extractor_faultsOutOfRange hx hs
    exact hoob hunfit
  case fitCheck => rw [exec_fitCheck_running hx hs, completeFit_fits, if_neg hunfit]

/-- Settles O10: ADDR_RANGE is the second test of `Fetch`. -/
theorem unreadableHeaderRaisesAddrRange : Obligations.UnreadableHeaderRaisesAddrRange := by
  intro i s hs hx
  obtain ⟨_, hrange⟩ := extractor_faultsOutOfRange hx hs
  exact hrange

/-- Settles O11: each cause is read off the state that its check gives; where no check applies, STATUS stays 0. -/
theorem commandReportsFirstApplyingCause : Obligations.CommandReportsFirstApplyingCause := by
  intro s w hs hr
  have hrunning := faulted_of_status_zero hs
  obtain ⟨t, ht⟩ := writeCmd_next w s
  refine ⟨t, (perform_wr .cmd w hr).trans ht, writeCmd_faulted_iff_cause hs ht, fun e hdec => ?illegal,
    fun i hdec => ?command⟩
  case illegal =>
    rw [writeCmd_rejected hdec hrunning] at ht
    obtain rfl := Host.Outcome.next.inj ht
    exact causeField_raiseFault s .illegalCmd w
  case command =>
    rw [writeCmd_of_decode s hdec] at ht
    refine ⟨fun hx hunfit => ?oob, fun hx hfits hunread => ?addrRange, fun hin => ?none⟩
    case oob =>
      obtain ⟨hoob, _⟩ := extractor_faultsOutOfRange hx hrunning
      obtain rfl := Host.Outcome.next.inj ((hoob hunfit).symm.trans ht)
      exact causeField_raiseFault s .oob (encode i)
    case addrRange =>
      obtain ⟨_, hrange⟩ := extractor_faultsOutOfRange hx hrunning
      obtain rfl := Host.Outcome.next.inj ((hrange hfits hunread).symm.trans ht)
      exact causeField_raiseFault s .addrRange (encode i)
    case none => exact causeField_of_status_zero ((exec_keeps_status ht hin).trans hs)

/-- Settles O12: a CMD write that leaves STATUS alone stays outside the fault state, so the write has raised a fault. -/
theorem faultEntryIsPrecise : Obligations.FaultEntryIsPrecise := by
  intro s t w hs h ht
  by_cases hr : s.resetLine = false
  case neg =>
    rw [wr, perform_write_aligned w s rfl, if_pos (by simpa using hr)] at h
    obtain rfl := Host.Outcome.next.inj h
    rw [hs] at ht
    cases ht
  case pos =>
    rw [perform_wr .cmd w hr] at h
    rcases writeCmd_keeps_status_or_raises h with hkept | ⟨c, rfl⟩
    · rw [faulted_of_status_eq hkept, hs] at ht
      cases ht
    · exact ⟨rfl, faultStatus_cases c⟩

/-! ### Inside the fault state -/

/-- Settles O8: only the command behind a CMD write asks for the fault state; the other accesses never look at it. -/
theorem faultStateIgnoresCommandsOnly : Obligations.FaultStateIgnoresCommandsOnly := by
  intro s hs
  refine ⟨fun i => exec_faulted i hs, fun hr => ⟨fun w => ?cmd, fun r => perform_rd r hr,
    fun v => perform_wr .bufBase v hr, fun v => perform_wr .bufLen v hr, fun v => perform_wr .offset v hr,
    fun v => perform_wr .ctrl v hr⟩⟩
  case cmd => exact (perform_wr .cmd w hr).trans (writeCmd_faulted w hs)

/-! ### Leaving the fault state -/

theorem resetBlock_blockAtReset (s : State) : BlockAtReset (resetBlock s) where
  cmd := rfl
  status := rfl
  bufBase := rfl
  bufLen := rfl
  offset := rfl
  result := rfl
  fit := rfl
  faultCmd := rfl
  hdr k := by simp
  irq := faulted_resetBlock s

theorem assertReset_blockAtReset (s : State) : BlockAtReset (assertReset s) :=
  { resetBlock_blockAtReset s with }

/-- The two resets, each with the action that performs it (60_exceptions.md R207). -/
theorem perform_leaves_faultState {a : HostAction} {s t : State} (h : perform a s = .next t) (hs : faulted s = true)
    (ht : faulted t = false) :
    (a = .resetAssert ∧ t = assertReset s) ∨
      (∃ v, a = .write 32 0x08 v ∧ v.getLsbD 0 = true ∧ s.resetLine = false ∧ t = resetBlock s) := by
  have hchanged : t.status ≠ s.status := fun hkept => by
    rw [faulted_of_status_eq hkept, hs] at ht
    cases ht
  rcases perform_cases h with rfl | ⟨w, _, _, hcmd⟩ | ⟨v, ha, hr, hv, e⟩ | ⟨_, _, _, rfl⟩ | ⟨_, _, _, rfl⟩ |
    ⟨_, _, _, rfl⟩ | ⟨_, _, _, rfl⟩ | ⟨_, _, _, _, rfl⟩ | ⟨_, _, _, _, rfl⟩ | ⟨ha, e⟩ | ⟨_, rfl⟩
  case inr.inl =>
    rw [writeCmd_faulted w hs] at hcmd
    exact absurd (congrArg State.status (Host.Outcome.next.inj hcmd).symm) hchanged
  case inr.inr.inl => exact .inr ⟨v, ha, hv, hr, e⟩
  case inr.inr.inr.inr.inr.inr.inr.inr.inr.inl => exact .inl ⟨ha, e⟩
  all_goals exact absurd rfl hchanged

/-- Settles O13: an idle step changes nothing, and of the actions only the two resets leave the fault state. -/
theorem onlyAResetLeavesTheFaultState : Obligations.OnlyAResetLeavesTheFaultState := by
  refine ⟨fun s t h hs ht => ?onlyResets, fun s => ⟨_, rfl, faulted_assertReset s⟩, fun s v hr hv => ?softReset⟩
  case onlyResets =>
    rcases step_cases h with ⟨_, rfl⟩ | ⟨a, rest, hinbox, hperform⟩
    · rw [hs] at ht
      cases ht
    · rcases perform_leaves_faultState hperform hs ht with ⟨rfl, rfl⟩ | ⟨v, rfl, hv, hr, rfl⟩
      · exact ⟨.inl ⟨rest, hinbox⟩, assertReset_blockAtReset _⟩
      · exact ⟨.inr ⟨v, rest, hinbox, hv, hr⟩, resetBlock_blockAtReset _⟩
  case softReset =>
    refine ⟨resetBlock s, ?_, faulted_resetBlock s⟩
    rw [perform_wr .ctrl v hr, writeRegister, writeCtrl, if_pos hv]

/-! ### The fault line -/

/-- Settles O15: the line is FAULT, which `raiseFault` sets and either reset clears. -/
theorem faultLineFollowsStatusFault : Obligations.FaultLineFollowsStatusFault :=
  fun s => ⟨rfl, faulted_raiseFault s, faulted_resetBlock s, faulted_assertReset s⟩

end Sys2Proof.Machine
end

section
/-! The reset values: what either reset leaves of any state, and what a CTRL write does with and without its SRST bit
(70_reset_and_hazards.md R231, 10_state.md R24). -/

namespace Sys2Proof.Machine

/-! ### The two resets -/

/-- `State.reset` is a state that a reset leaves, so what holds after every reset holds of it. -/
theorem resetBlock_reset : resetBlock State.reset = State.reset := rfl

theorem packetByte_resetBlock (s : State) (x : Nat) : packetByte (resetBlock s) x = packetByte s x :=
  packetByte_congr (resetBlock_mem s) x

theorem packetByte_assertReset (s : State) (x : Nat) : packetByte (assertReset s) x = packetByte s x :=
  packetByte_congr (assertReset_mem s) x

/-! ### A CTRL write -/

theorem perform_wr_ctrl_srst {s : State} {v : Word} (hr : s.resetLine = false) (hv : v.getLsbD 0 = true) :
    perform (wr .ctrl v) s = .next (resetBlock s) := by
  rw [perform_wr .ctrl v hr, writeRegister, writeCtrl, if_pos hv]

/-- The other bits of CTRL are ignored (10_state.md R24). -/
theorem perform_wr_ctrl_no_srst {s : State} {v : Word} (hr : s.resetLine = false) (hv : v.getLsbD 0 = false) :
    perform (wr .ctrl v) s = .next s := by
  rw [perform_wr .ctrl v hr, writeRegister, writeCtrl, if_neg (Bool.eq_false_iff.1 hv)]

/-! ### The obligation -/

/-- Settles O45: each of the two reset actions performs the reset effect, which sets the block's own state alone; packet
memory is not a part of it. -/
theorem resetValues : Obligations.ResetValues := by
  refine ⟨?stateReset, fun s => ?hardReset, fun s v hr => ⟨fun hv => ?softReset, perform_wr_ctrl_no_srst hr⟩⟩
  case stateReset => exact resetBlock_reset ▸ resetBlock_blockAtReset State.reset
  case hardReset => exact ⟨assertReset s, rfl, assertReset_blockAtReset s, packetByte_assertReset s⟩
  case softReset =>
    exact ⟨resetBlock s, perform_wr_ctrl_srst hr hv, resetBlock_blockAtReset s, packetByte_resetBlock s⟩

end Sys2Proof.Machine
end

section
/-! The decoder's acceptance: which words are legal, for all words and for the ones the spec writes out
(30_encoding.md R70 to R74). -/

namespace Sys2Proof

/-- Settles O1: the encoder is the decoder's inverse in both directions. -/
theorem decodeInvertsEncode : Obligations.DecodeInvertsEncode :=
  fun _ _ => decode_eq_ok_iff

/-- With `protoOfCode_protoCode` and `protoCode_toNat_le`: the codes 0 to 6 are those of the protocols
(30_encoding.md R71). -/
theorem exists_protoOfCode {c : BitVec 4} (h : c.toNat ≤ 6) : ∃ p, protoOfCode c = some p := by
  have codes : ∀ c : BitVec 4, c.toNat ≤ 6 → (protoOfCode c).isSome = true := by decide
  exact Option.isSome_iff_exists.1 (codes c h)

theorem decode_of_fields {w : Word} {p : Proto} (hrsvd : rsvdField w = 0) (hproto : protoOfCode (protoField w) = some p) :
    decode w = .ok (if opField w then extractorOf p else fitCheckOf p) := by
  rw [decode, if_pos hrsvd, hproto]

/-- Settles O4: a word outside the condition is rejected, and a word inside it has a protocol to select. -/
theorem legalWordsAreRsvdZeroProtoAtMostSix : Obligations.LegalWordsAreRsvdZeroProtoAtMostSix := by
  intro w
  constructor
  · rintro ⟨i, hdec⟩
    by_contra hillegal
    obtain ⟨e, he⟩ := Machine.decode_error_of_illegal (w := w) (by
      rwa [not_and_or, Nat.not_le] at hillegal)
    rw [hdec] at he
    cases he
  · rintro ⟨hrsvd, hcode⟩
    obtain ⟨p, hp⟩ := exists_protoOfCode hcode
    exact ⟨_, decode_of_fields hrsvd hp⟩

/-- Settles O3: the accepted words are rows of the opcode map; the others break one field each. -/
theorem sampleWordsDecodeRight : Obligations.SampleWordsDecodeRight := by
  refine ⟨decode_encode .fitIp4, decode_encode .fitTcp, decode_encode .extVlan, decode_encode .extIp6,
    decode_encode .extUdp, ?_, ?_, ?_⟩ <;> decide

end Sys2Proof
end

section
/-! Which actions write what: an action performs a CMD write, an OFFSET write or a reset, or it leaves STATUS, RESULT, HDR,
FIT and OFFSET alone (10_state.md R23, R27 to R31); and no action changes a parameter. -/

namespace Sys2Proof.Machine

/-! ### The three kinds of action that write the block -/

/-- The two resets, the CTRL write where the block accepts it (60_exceptions.md R207). -/
def PerformsReset (a : HostAction) (s : State) : Prop :=
  a = .resetAssert ∨ ∃ v, a = .write 32 0x08 v ∧ v.getLsbD 0 = true ∧ s.resetLine = false

/-- `t` is `s` but for the two buffer registers, packet memory and its writers, the reset input and the word read. -/
def KeepsOutputs (s t : State) : Prop :=
  t = { s with bufBase := t.bufBase, bufLen := t.bufLen, mem := t.mem, inFlight := t.inFlight,
               resetLine := t.resetLine, readData := t.readData }

theorem perform_output_cases {a : HostAction} {s t : State} (h : perform a s = .next t) :
    KeepsOutputs s t ∨
      (∃ w, a = .write 32 0x00 w ∧ s.resetLine = false ∧ writeCmd w s = .next t) ∨
      (∃ v x, a = .write 32 0x14 v ∧ s.resetLine = false ∧ t = { s with offset := x }) ∨
      (PerformsReset a s ∧ (t = resetBlock s ∨ t = assertReset s)) := by
  rcases perform_cases h with rfl | hcmd | ⟨v, ha, hr, hv, rfl⟩ | ⟨_, _, _, rfl⟩ | ⟨_, _, _, rfl⟩ |
    ⟨v, ha, hr, rfl⟩ | ⟨_, _, _, rfl⟩ | ⟨_, _, _, _, rfl⟩ | ⟨_, _, _, _, rfl⟩ | ⟨ha, rfl⟩ | ⟨_, rfl⟩
  case inr.inl => exact .inr (.inl hcmd)
  case inr.inr.inl => exact .inr (.inr (.inr ⟨.inr ⟨v, ha, hv, hr⟩, .inl rfl⟩))
  case inr.inr.inr.inr.inr.inl => exact .inr (.inr (.inl ⟨v, _, ha, hr, rfl⟩))
  case inr.inr.inr.inr.inr.inr.inr.inr.inr.inl => exact .inr (.inr (.inr ⟨.inl ha, .inr rfl⟩))
  all_goals exact .inl rfl

/-- The reset of a step, as the statements write it. -/
theorem inbox_of_performsReset {s : State} {a : HostAction} {rest : List HostAction} (hinbox : s.inbox = a :: rest)
    (ha : PerformsReset a { s with inbox := rest }) :
    (∃ rest, s.inbox = .resetAssert :: rest) ∨
      ∃ v rest, s.inbox = .write 32 0x08 v :: rest ∧ v.getLsbD 0 = true ∧ s.resetLine = false := by
  rcases ha with rfl | ⟨v, rfl, hv, hr⟩
  · exact .inl ⟨rest, hinbox⟩
  · exact .inr ⟨v, rest, hinbox, hv, hr⟩

/-! ### STATUS -/

/-- A CMD write changes STATUS only by entering the fault state (60_exceptions.md R205, R206). -/
theorem writeCmd_status_changed {w : Word} {s t : State} (h : writeCmd w s = .next t) (hchanged : t.status ≠ s.status) :
    faulted s = false ∧ faulted t = true := by
  obtain ⟨c, rfl⟩ := (writeCmd_keeps_status_or_raises h).resolve_left hchanged
  refine ⟨Bool.eq_false_iff.2 fun hs => ?_, faulted_raiseFault s c w⟩
  rw [writeCmd_faulted w hs] at h
  exact hchanged (congrArg State.status (Host.Outcome.next.inj h).symm)

/-- Settles O14: of the actions that write the block, an OFFSET write leaves STATUS alone. -/
theorem statusChangesOnlyOnFaultEntryAndReset : Obligations.StatusChangesOnlyOnFaultEntryAndReset := by
  intro s t h hchanged
  rcases step_cases h with ⟨_, rfl⟩ | ⟨a, rest, hinbox, hperform⟩
  · exact absurd rfl hchanged
  · rcases perform_output_cases hperform with hkeeps | ⟨w, rfl, hr, hcmd⟩ | ⟨_, _, _, _, rfl⟩ | ⟨ha, rfl | rfl⟩
    · rw [hkeeps] at hchanged
      exact absurd rfl hchanged
    · obtain ⟨hs, ht⟩ := writeCmd_status_changed hcmd hchanged
      exact .inl ⟨hs, ht, hr, w, rest, hinbox⟩
    · exact absurd rfl hchanged
    · exact .inr ⟨rfl, inbox_of_performsReset hinbox ha⟩
    · exact .inr ⟨rfl, inbox_of_performsReset hinbox ha⟩

/-! ### RESULT, HDR and FIT -/

/-- A CMD write changes RESULT or HDR only as a completing extractor (10_state.md R28, R31). -/
theorem writeCmd_extraction_changed {w : Word} {s t : State} (h : writeCmd w s = .next t)
    (hchanged : t.result ≠ s.result ∨ t.hdr ≠ s.hdr) :
    ∃ i, isExtractor i = true ∧ w = encode i ∧ faulted s = false ∧ HeaderFits (protoOf i) s ∧
      HeaderReadable (protoOf i) s := by
  rcases writeCmd_cases w s with ⟨i, hdec, e⟩ | ⟨_, _, e⟩ <;> rw [e] at h
  · rcases exec_cases h with ⟨_, rfl⟩ | ⟨_, _, rfl⟩ | ⟨hs, hx, hfits, hread, _⟩ | ⟨_, _, _, rfl⟩ | ⟨_, _, _, _, rfl⟩
    case inr.inr.inl => exact ⟨i, hx, encode_of_decode hdec, hs, hfits, hread⟩
    all_goals simp at hchanged
  · unfold rejectCommand issue at h
    obtain rfl := Host.Outcome.next.inj h
    split at hchanged <;> simp at hchanged

/-- A CMD write changes FIT only as a fit check (10_state.md R29). -/
theorem writeCmd_fit_changed {w : Word} {s t : State} (h : writeCmd w s = .next t) (hchanged : t.fit ≠ s.fit) :
    ∃ i, isExtractor i = false ∧ w = encode i ∧ faulted s = false := by
  rcases writeCmd_cases w s with ⟨i, hdec, e⟩ | ⟨_, _, e⟩ <;> rw [e] at h
  · rcases exec_cases h with ⟨_, rfl⟩ | ⟨hs, hx, _⟩ | ⟨_, _, _, _, _, _, _, rfl⟩ | ⟨_, _, _, rfl⟩ | ⟨_, _, _, _, rfl⟩
    case inr.inl => exact ⟨i, hx, encode_of_decode hdec, hs⟩
    all_goals simp at hchanged
  · unfold rejectCommand issue at h
    obtain rfl := Host.Outcome.next.inj h
    split at hchanged <;> simp at hchanged

/-- Settles O33: a CMD write changes an output only by the command that writes it, and leaves OFFSET alone. -/
theorem outputsChangeOnlyByTheirCommands : Obligations.OutputsChangeOnlyByTheirCommands := by
  intro s t h
  rcases step_cases h with ⟨_, rfl⟩ | ⟨a, rest, hinbox, hperform⟩
  · simp
  · rcases perform_output_cases hperform with hkeeps | ⟨w, rfl, hr, hcmd⟩ | ⟨v, _, rfl, hr, rfl⟩ | ⟨ha, _⟩
    · rw [hkeeps]
      simp
    · refine ⟨fun hchanged => ?extraction, fun hchanged => ?fit, fun hchanged => ?offset⟩
      case extraction =>
        obtain ⟨i, hx, rfl, hs, hfits, hread⟩ := writeCmd_extraction_changed hcmd hchanged
        exact .inl ⟨i, rest, hx, hinbox, hs, hr, hfits, hread⟩
      case fit =>
        obtain ⟨i, hx, rfl, hs⟩ := writeCmd_fit_changed hcmd hchanged
        exact .inl ⟨i, rest, hx, hinbox, hs, hr⟩
      case offset =>
        rw [writeCmd_frame hcmd] at hchanged
        exact absurd rfl hchanged
    · simp only [ne_eq, not_true_eq_false, or_self, false_implies, true_and]
      exact fun _ => .inl ⟨v, rest, hinbox, hr⟩
    · have hreset := inbox_of_performsReset hinbox ha
      exact ⟨fun _ => .inr hreset, fun _ => .inr hreset, fun _ => .inr hreset⟩

/-! ### The parameters -/

theorem perform_cfg {a : HostAction} {s t : State} (h : perform a s = .next t) : t.cfg = s.cfg := by
  rcases perform_output_cases h with hkeeps | ⟨_, _, _, hcmd⟩ | ⟨_, _, _, _, rfl⟩ | ⟨_, rfl | rfl⟩
  · rw [hkeeps]
  · rw [writeCmd_frame hcmd]
  · rfl
  · rfl
  · rfl

/-- Settles O48: a step is idle or performs an action. -/
theorem parametersNeverChange : Obligations.ParametersNeverChange := by
  intro s t h
  rcases step_cases h with ⟨_, rfl⟩ | ⟨_, _, _, hperform⟩
  · rfl
  · have hcfg := perform_cfg hperform
    exact hcfg

/-! ### Writes in progress -/

theorem perform_inFlight {a : HostAction} {s t : State} (h : perform a s = .next t)
    (hstart : ∀ addr b, a ≠ .packetWriteStart addr b) (hdone : ∀ k, a ≠ .packetWriteDone k) :
    t.inFlight = s.inFlight := by
  rcases perform_cases h with rfl | ⟨_, _, _, hcmd⟩ | ⟨_, _, _, _, rfl⟩ | ⟨_, _, _, rfl⟩ | ⟨_, _, _, rfl⟩ |
    ⟨_, _, _, rfl⟩ | ⟨_, _, _, rfl⟩ | ⟨addr, b, ha, _, _⟩ | ⟨k, _, ha, _, _⟩ | ⟨_, rfl⟩ | ⟨_, rfl⟩
  case inr.inl => rw [writeCmd_frame hcmd]
  case inr.inr.inr.inr.inr.inr.inr.inl => exact absurd ha (hstart addr b)
  case inr.inr.inr.inr.inr.inr.inr.inr.inl => exact absurd ha (hdone k)
  all_goals rfl

/-- Where the write at place `k` is there to complete (20_memory.md R60). -/
theorem perform_packetWriteDone {s : State} {k : Nat} {c : Host.Cell} (h : s.inFlight[k]? = some c) :
    perform (.packetWriteDone k) s =
      .next { s with mem := Memory.write s.mem c.1 c.2, inFlight := s.inFlight.eraseIdx k } := by
  simp only [perform, finishPacketWrite, h]

/-- Settles O38: reading back after a write to packet memory gives the byte written there and the old one elsewhere. -/
theorem completedPacketWriteIsSeen : Obligations.CompletedPacketWriteIsSeen := by
  refine ⟨fun s k a b hk => ⟨_, perform_packetWriteDone hk, ?written, fun x hx => ?elsewhere, rfl, rfl⟩,
    fun _ _ _ hstart hdone h => perform_inFlight h hstart hdone⟩
  case written => simp [packetByte, Memory.read?_write_self]
  case elsewhere => simp [packetByte, Memory.read?_write_other s.mem b hx]

end Sys2Proof.Machine
end

section
/-! The machine invariant: it holds of the block at its reset values, and each kind of action keeps it
(10_state.md, 60_exceptions.md, 70_reset_and_hazards.md R230, R231). -/

namespace Sys2Proof.Machine

/-! ### At reset -/

/-- Of a block at its reset values the invariant asks only for legal parameters and a packet memory in order. -/
theorem BlockAtReset.inv {s : State} (h : BlockAtReset s) (cfg : s.cfg.wf = true) (memWf : Memory.wf s.mem = true)
    (memRange : ∀ c ∈ s.mem, c.1 < s.cfg.pktMemBytes) (inFlightRange : ∀ c ∈ s.inFlight, c.1 < s.cfg.pktMemBytes) :
    Inv s where
  cfg := cfg
  bufBase := by simp [h.bufBase]
  bufLen := by simp [h.bufLen]
  offset := by simp [h.offset]
  status := .inl h.status
  fit := .inl h.fit
  result := by simp [h.result]
  running _ := ⟨h.faultCmd, .fitEth, h.cmd⟩
  stuck hstatus := absurd h.status hstatus
  illegal hstatus := by simp [h.status] at hstatus
  extractor hstatus := by simp [h.status] at hstatus
  memWf := memWf
  memRange := memRange
  inFlightRange := inFlightRange
  held _ := h

/-- Settles O49: `State.reset` is a state that a reset leaves, with the standard parameters and nothing written. -/
theorem invariantHoldsAtReset : Obligations.InvariantHoldsAtReset := by
  have hreset : BlockAtReset State.reset := resetBlock_reset ▸ resetBlock_blockAtReset State.reset
  exact hreset.inv (by decide) rfl (List.forall_mem_nil _) (List.forall_mem_nil _)

/-! ### Updates that keep it -/

variable {s : State}

theorem Inv.resetBlock (h : Inv s) : Inv (resetBlock s) :=
  (resetBlock_blockAtReset s).inv h.cfg h.memWf h.memRange h.inFlightRange

theorem Inv.assertReset (h : Inv s) : Inv (assertReset s) :=
  (assertReset_blockAtReset s).inv h.cfg h.memWf h.memRange h.inFlightRange

theorem Inv.releaseReset (h : Inv s) : Inv (releaseReset s) :=
  { h with held := fun hr => absurd hr Bool.false_ne_true }

/-- What the host is still to do and the word it last read are not the block's (log entries 1, 10). -/
theorem Inv.hostFields (h : Inv s) (d : Option Word) (inbox : List HostAction) :
    Inv { s with readData := d, inbox := inbox } :=
  { h with held := fun hr => { h.held hr with } }

theorem lowBits_lt (bits : Nat) (v : Word) : (lowBits bits v).toNat < 2 ^ bits := by
  rw [lowBits_toNat]
  exact Nat.mod_lt _ (Nat.two_pow_pos bits)

section
variable (hr : s.resetLine = false)
include hr

theorem not_held (t : State) : s.resetLine = true → BlockAtReset t := fun h => by
  rw [hr] at h
  cases h

theorem Inv.setBufBase (h : Inv s) (v : Word) : Inv { s with bufBase := lowBits s.cfg.pktAddrBits v } :=
  { h with bufBase := lowBits_lt s.cfg.pktAddrBits v, held := not_held hr _ }

theorem Inv.setBufLen (h : Inv s) (v : Word) : Inv { s with bufLen := lowBits s.cfg.offsetBits v } :=
  { h with bufLen := lowBits_lt s.cfg.offsetBits v, held := not_held hr _ }

theorem Inv.setOffset (h : Inv s) (v : Word) : Inv { s with offset := lowBits s.cfg.offsetBits v } :=
  { h with offset := lowBits_lt s.cfg.offsetBits v, held := not_held hr _ }

end

theorem Inv.startPacketWrite (h : Inv s) {addr : Nat} (b : Byte) (haddr : addr < s.cfg.pktMemBytes) :
    Inv { s with inFlight := s.inFlight ++ [(addr, b)] } :=
  { h with
    inFlightRange := fun c hc => by
      rcases List.mem_append.1 hc with hold | hnew
      · exact h.inFlightRange c hold
      · rw [List.mem_singleton.1 hnew]
        exact haddr
    held := fun hr => { h.held hr with } }

theorem Inv.finishPacketWrite (h : Inv s) {k : Nat} {c : Host.Cell} (hc : s.inFlight[k]? = some c) :
    Inv { s with mem := Memory.write s.mem c.1 c.2, inFlight := s.inFlight.eraseIdx k } :=
  { h with
    memWf := Memory.write_wf c.1 c.2 h.memWf
    memRange := fun d hd => by
      rcases Memory.mem_write hd with hold | rfl
      · exact h.memRange d hold
      · exact h.inFlightRange c (List.mem_of_getElem? hc)
    inFlightRange := fun d hd => h.inFlightRange d (List.mem_of_mem_eraseIdx hd)
    held := fun hr => { h.held hr with } }

/-! ### Commands keep it -/

/-- The three other STATUS words have FAULT set (10_state.md R23). -/
theorem Inv.status_of_running (h : Inv s) (hs : faulted s = false) : s.status = 0 := by
  refine h.status.resolve_right fun hstatus => ?_
  unfold faulted at hs
  rcases hstatus with e | e | e <;> rw [e] at hs <;> exact absurd hs (by decide)

theorem faultStatus_ne_zero (c : Cause) : faultStatus c ≠ 0 := by cases c <;> decide

theorem faultStatus_eq_illegalCmd {c : Cause} : faultStatus c = 0x00000011 ↔ c = .illegalCmd := by cases c <;> decide

theorem faultStatus_eq_outOfRange {c : Cause} :
    faultStatus c = 0x00000021 ∨ faultStatus c = 0x00000031 ↔ c ≠ .illegalCmd := by cases c <;> decide

section
variable (hr : s.resetLine = false) (hs : faulted s = false)
include hr hs

theorem Inv.completeFit (h : Inv s) (i : Instr) (b : Bool) : Inv (completeFit (encode i) b s) :=
  { h with
    fit := by rw [completeFit_fit, fitWord_eq]; cases b <;> simp
    running := fun hstatus => ⟨(h.running hstatus).1, i, rfl⟩
    stuck := fun hstatus => absurd (h.status_of_running hs) hstatus
    held := not_held hr _ }

theorem Inv.completeExtract (h : Inv s) (i : Instr) (tag : Tag) {len : Nat} (bytes : List Byte) (hlen : len ≤ 2048) :
    Inv (completeExtract (encode i) tag len bytes s) :=
  { h with
    result := by
      rw [completeExtract_result, resultWord_reserved, resultWord_tag, resultWord_len tag (by omega)]
      exact ⟨rfl, tagCode_le tag, hlen⟩
    running := fun hstatus => ⟨(h.running hstatus).1, i, rfl⟩
    stuck := fun hstatus => absurd (h.status_of_running hs) hstatus
    held := not_held hr _ }

omit hs in
/-- The word that faulted agrees with the cause (60_exceptions.md R201 to R203). -/
theorem Inv.raiseFault (h : Inv s) {c : Cause} {w : Word} (hillegal : c = .illegalCmd → ∀ i, w ≠ encode i)
    (hextractor : c ≠ .illegalCmd → ∃ i, isExtractor i = true ∧ w = encode i) : Inv (raiseFault c w s) :=
  { h with
    status := .inr (faultStatus_cases c)
    running := fun hstatus => absurd hstatus (faultStatus_ne_zero c)
    stuck := fun _ => rfl
    illegal := fun hstatus => hillegal (faultStatus_eq_illegalCmd.1 hstatus)
    extractor := fun hstatus => hextractor (faultStatus_eq_outOfRange.1 hstatus)
    held := not_held hr _ }

end

theorem Inv.exec (h : Inv s) (hr : s.resetLine = false) {i : Instr} {t : State} (hexec : exec i s = .next t) :
    Inv t := by
  rcases exec_cases hexec with ⟨_, rfl⟩ | ⟨hs, _, rfl⟩ | ⟨hs, _, _, _, tag, len, hlen, rfl⟩ | ⟨_, hx, _, rfl⟩ |
    ⟨_, hx, _, _, rfl⟩
  · exact h
  · exact h.completeFit hr hs i _
  · exact h.completeExtract hr hs i tag _ hlen
  · exact h.raiseFault hr (fun hc => by cases hc) fun _ => ⟨i, hx, rfl⟩
  · exact h.raiseFault hr (fun hc => by cases hc) fun _ => ⟨i, hx, rfl⟩

theorem Inv.writeCmd (h : Inv s) (hr : s.resetLine = false) {w : Word} {t : State} (hcmd : writeCmd w s = .next t) :
    Inv t := by
  cases hs : faulted s with
  | true =>
    rw [writeCmd_faulted w hs] at hcmd
    exact Host.Outcome.next.inj hcmd ▸ h
  | false =>
    cases hdec : decode w with
    | ok i => exact h.exec hr ((writeCmd_of_decode s hdec).symm.trans hcmd)
    | error e =>
      rw [writeCmd_rejected hdec hs] at hcmd
      obtain rfl := Host.Outcome.next.inj hcmd
      refine h.raiseFault hr (fun _ i hw => ?_) fun hc => absurd rfl hc
      rw [decode_eq_ok_iff.2 hw] at hdec
      cases hdec

/-! ### Every action and every step keeps it -/

theorem Inv.perform (h : Inv s) {a : HostAction} {t : State} (hperform : perform a s = .next t) : Inv t := by
  rcases perform_cases hperform with rfl | ⟨w, _, hr, hcmd⟩ | ⟨_, _, _, _, rfl⟩ | ⟨v, _, hr, rfl⟩ | ⟨v, _, hr, rfl⟩ |
    ⟨v, _, hr, rfl⟩ | ⟨_, d, _, rfl⟩ | ⟨_, b, _, haddr, rfl⟩ | ⟨_, _, _, hc, rfl⟩ | ⟨_, rfl⟩ | ⟨_, rfl⟩
  · exact h
  · exact h.writeCmd hr hcmd
  · exact h.resetBlock
  · exact h.setBufBase hr v
  · exact h.setBufLen hr v
  · exact h.setOffset hr v
  · exact h.hostFields d s.inbox
  · exact h.startPacketWrite b haddr
  · exact h.finishPacketWrite hc
  · exact h.assertReset
  · exact h.releaseReset

/-- Settles O50: taking an action off the inbox changes nothing of the block, and each kind of action keeps the
invariant. -/
theorem invariantKeptByEveryStep : Obligations.InvariantKeptByEveryStep := by
  intro s t h hstep
  rcases step_cases hstep with ⟨_, rfl⟩ | ⟨_, rest, _, hperform⟩
  · exact h
  · exact (h.hostFields s.readData rest).perform hperform

end Sys2Proof.Machine
end

section
/-! What a command reads: `Fetch` gives the packet bytes in order, each as held or as a write in progress would have it; and
what a command answers is a function of what it reads (20_memory.md R53 to R58, 10_state.md R35). -/

namespace Sys2Proof.Machine

/-! ### The bytes of a snapshot -/

/-- A snapshot of bytes that nobody is writing (70_reset_and_hazards.md R237, duty 6). -/
theorem memRead_quiet {s : State} {a n : Nat} (h : Quiet s a n) :
    memRead s a n = (List.range n).map fun i => packetByte s (a + i) := by
  refine List.map_congr_left fun i hi => sampledByte_quiet fun c hc => ?_
  have hi := List.mem_range.1 hi
  have hout := h c hc
  omega

/-- Settles O36: the three answers of `Fetch`, and a quiet snapshot byte by byte. -/
theorem snapshotReadsPacketBytesInOrder : Obligations.SnapshotReadsPacketBytesInOrder := by
  intro n s
  refine ⟨fun hlong => (fetch_oob_iff n s).2 (Nat.not_le.2 hlong),
    fun hfits hlong => (fetch_addrRange_iff n s).2 ⟨hfits, Nat.not_le.2 hlong⟩,
    fun hfits hread => ⟨_, fetch_ok hfits hread, memRead_length s _ n, fun hquiet k hk => ?_⟩⟩
  rw [memRead_quiet hquiet]
  simp [hk]

/-- Settles O37: the byte is a sample, and a sample is the held byte or one of a write in progress there. -/
theorem racedByteIsOldOrNew : Obligations.RacedByteIsOldOrNew := by
  intro s a n k hk
  rw [memRead_getD s a hk]
  exact ⟨(sampledByte_cases s (a + k)).imp_right mem_racingBytes.1,
    fun hnone => (sampledByte_cases s (a + k)).resolve_right fun hrace => hnone _ (mem_racingBytes.1 hrace)⟩

/-! ### A command as the fit check or the extractor of its protocol -/

theorem eq_extractorOf_of_isExtractor {i : Instr} (h : isExtractor i = true) : i = extractorOf (protoOf i) := by
  obtain ⟨_, _, _, hi⟩ := encodingFields i
  rwa [if_pos h] at hi

/-- An extractor that completes, by the rule of its protocol on the header it fetched. -/
theorem exec_completes {i : Instr} {s : State} (hi : isExtractor i = true) (hs : faulted s = false)
    (hfits : HeaderFits (protoOf i) s) (hread : HeaderReadable (protoOf i) s) :
    exec i s = .next (completeExtract (encode i) (headerRule s.cfg.wire (protoOf i) (headerOf (protoOf i) s)).1
      (headerRule s.cfg.wire (protoOf i) (headerOf (protoOf i) s)).2 (headerOf (protoOf i) s) s) := by
  have h := exec_extractorOf_completes hs hfits hread
  rwa [← eq_extractorOf_of_isExtractor hi] at h

/-! ### The inputs of a command determine its outputs -/

/-- What a command of protocol `p` reads is the same in both states: the registers and parameters it looks at, and the
packet bytes of its header, with no write to them in progress (10_state.md R35). -/
structure SameInputs (p : Proto) (s u : State) : Prop where
  cfg : u.cfg = s.cfg
  bufBase : u.bufBase = s.bufBase
  bufLen : u.bufLen = s.bufLen
  offset : u.offset = s.offset
  quiet : Quiet s (s.bufBase.toNat + s.offset.toNat) (fixedSize p)
  quiet' : Quiet u (s.bufBase.toNat + s.offset.toNat) (fixedSize p)
  bytes : ∀ k, k < fixedSize p →
    packetByte u (s.bufBase.toNat + s.offset.toNat + k) = packetByte s (s.bufBase.toNat + s.offset.toNat + k)

section
variable {p : Proto} {s u : State} (h : SameInputs p s u)
include h

theorem SameInputs.headerOf : headerOf p u = headerOf p s := by
  unfold Machine.headerOf
  rw [h.bufBase, h.offset, memRead_quiet h.quiet, memRead_quiet h.quiet']
  exact List.map_congr_left fun k hk => h.bytes k (List.mem_range.1 hk)

theorem SameInputs.headerFits : HeaderFits p u ↔ HeaderFits p s := by
  rw [HeaderFits, HeaderFits, h.offset, h.bufLen]

theorem SameInputs.headerReadable : HeaderReadable p u ↔ HeaderReadable p s := by
  rw [HeaderReadable, HeaderReadable, h.bufBase, h.offset, h.cfg]

end

/-- A fit check answers alike on the same inputs. -/
theorem exec_fitCheck_sameInputs {i : Instr} {s u : State} (h : SameInputs (protoOf i) s u) (hi : isExtractor i = false)
    (hs : faulted s = false) (hu : faulted u = false) :
    ∃ b, exec i s = .next (completeFit (encode i) b s) ∧ exec i u = .next (completeFit (encode i) b u) := by
  refine ⟨_, exec_fitCheck_running hi hs, ?_⟩
  rw [exec_fitCheck_running hi hu, h.offset, h.bufLen]

/-- An extractor completes alike on the same inputs, or raises the same fault. -/
theorem exec_extractor_sameInputs {i : Instr} {s u : State} (h : SameInputs (protoOf i) s u)
    (hi : isExtractor i = true) (hs : faulted s = false) (hu : faulted u = false) :
    (∃ tag len bytes, exec i s = .next (completeExtract (encode i) tag len bytes s) ∧
        exec i u = .next (completeExtract (encode i) tag len bytes u)) ∨
      ∃ c, exec i s = .next (raiseFault c (encode i) s) ∧ exec i u = .next (raiseFault c (encode i) u) := by
  obtain ⟨hoob, hrange⟩ := extractor_faultsOutOfRange hi hs
  obtain ⟨hoob', hrange'⟩ := extractor_faultsOutOfRange hi hu
  rw [h.headerFits] at hoob' hrange'
  rw [h.headerReadable] at hrange'
  by_cases hfits : HeaderFits (protoOf i) s
  · by_cases hread : HeaderReadable (protoOf i) s
    · refine .inl ⟨_, _, _, exec_completes hi hs hfits hread, ?_⟩
      rw [exec_completes hi hu (h.headerFits.2 hfits) (h.headerReadable.2 hread), h.headerOf, h.cfg]
    · exact .inr ⟨.addrRange, hrange hfits hread, hrange' hfits hread⟩
  · exact .inr ⟨.oob, hoob hfits, hoob' hfits⟩

/-- Settles O34: on the same inputs a command completes alike or raises the same fault. -/
theorem outputsDependOnCommandInputsAlone : Obligations.OutputsDependOnCommandInputsAlone := by
  intro i s u t t' hs hu hcfg hbase hlen hoff hquiet hquiet' hbytes ht ht'
  have h : SameInputs (protoOf i) s u := ⟨hcfg, hbase, hlen, hoff, hquiet, hquiet', hbytes⟩
  have hs' := faulted_of_status_zero hs
  have hu' := faulted_of_status_zero hu
  cases hi : isExtractor i with
  | false =>
    obtain ⟨b, e, e'⟩ := exec_fitCheck_sameInputs h hi hs' hu'
    obtain rfl := Host.Outcome.next.inj (e.symm.trans ht)
    obtain rfl := Host.Outcome.next.inj (e'.symm.trans ht')
    simp [hs, hu]
  | true =>
    rcases exec_extractor_sameInputs h hi hs' hu' with ⟨tag, len, bytes, e, e'⟩ | ⟨c, e, e'⟩
    · obtain rfl := Host.Outcome.next.inj (e.symm.trans ht)
      obtain rfl := Host.Outcome.next.inj (e'.symm.trans ht')
      simp [hs, hu]
    · obtain rfl := Host.Outcome.next.inj (e.symm.trans ht)
      obtain rfl := Host.Outcome.next.inj (e'.symm.trans ht')
      exact ⟨rfl, rfl, fun hx => absurd hx (by decide), fun _ hc => absurd hc (faultStatus_ne_zero c)⟩

/-! ### A command run twice -/

/-- A state has the inputs of any state it differs from in nothing a command reads. -/
theorem sameInputs_of_command_frame {p : Proto} {s t : State}
    (hquiet : Quiet s (s.bufBase.toNat + s.offset.toNat) (fixedSize p))
    (h : t = { s with cmd := t.cmd, status := t.status, result := t.result, fit := t.fit, faultCmd := t.faultCmd,
                      hdr := t.hdr, draws := t.draws }) : SameInputs p s t := by
  rw [h]
  exact ⟨rfl, rfl, rfl, rfl, hquiet, hquiet, fun _ _ => rfl⟩

/-- Settles O35: a command writes none of its inputs, so the second run completes as the first did, or finds the fault
state that the first entered. -/
theorem repeatingACommandChangesNothing : Obligations.RepeatingACommandChangesNothing := by
  intro i s t hquiet ht
  have h : SameInputs (protoOf i) s t := sameInputs_of_command_frame hquiet (exec_frame ht)
  cases hf : faulted t with
  | true => exact ⟨t.draws, exec_faulted i hf⟩
  | false =>
    have hs : faulted s = false := Bool.eq_false_iff.2 fun hs => by
      rw [exec_faulted i hs] at ht
      rw [← Host.Outcome.next.inj ht, hs] at hf
      cases hf
    cases hi : isExtractor i with
    | false =>
      obtain ⟨b, e, e'⟩ := exec_fitCheck_sameInputs h hi hs hf
      obtain rfl := Host.Outcome.next.inj (e.symm.trans ht)
      exact ⟨_, e'⟩
    | true =>
      rcases exec_extractor_sameInputs h hi hs hf with ⟨tag, len, bytes, e, e'⟩ | ⟨c, e, e'⟩
      · obtain rfl := Host.Outcome.next.inj (e.symm.trans ht)
        exact ⟨_, e'⟩
      · obtain rfl := Host.Outcome.next.inj (e.symm.trans ht)
        rw [faulted_raiseFault] at hf
        cases hf

end Sys2Proof.Machine
end

section
/-! Consumed lengths and dispatch tables for any wire constants: what each rule can consume, and that distinct constants
select their rows (30_encoding.md R76, R78 to R80, 95_test_vectors.md V-INV-1). -/

namespace Sys2Proof.Machine

/-! ### Consumed lengths -/

/-- 95_test_vectors.md V-INV-1: the bounds of each rule, whatever the bytes (90_conflicts.md C1, C2). -/
theorem headerRule_len (w : Wire) (p : Proto) (h : List Byte) :
    (p = .eth → (headerRule w p h).2 = 14) ∧ (p ≠ .eth → (headerRule w p h).2 % 4 = 0) ∧
      (headerRule w p h).2 ≤ 2048 ∧ (p ≠ .ip4 → p ≠ .tcp → 0 < (headerRule w p h).2) := by
  cases p with
  | eth | vlan | ip6 | udp => simp [headerRule, fixedSize]
  | ip4 => simpa [headerRule] using ip4Length_le h
  | tcp => simpa [headerRule] using tcpLength_le h
  | ip6ext =>
    obtain ⟨hmin, hmax, hmod⟩ := extLength_bounds (nhDispatch w (extNextHeader h)) h
    refine ⟨fun hp => absurd hp (by decide), fun _ => ?_, hmax, fun _ _ => Nat.lt_of_lt_of_le (by decide) hmin⟩
    exact Nat.mod_eq_zero_of_dvd (Nat.dvd_trans ⟨2, rfl⟩ (Nat.dvd_of_mod_eq_zero hmod))

theorem resultLenField_completeExtract (w : Word) (tag : Tag) {len : Nat} (bytes : List Byte) (s : State)
    (hlen : len ≤ 2048) : resultLenField (completeExtract w tag len bytes s) = len :=
  resultWord_len tag (by omega)

/-- Settles O29: RESULT.LEN is what the rule of the extractor's protocol consumes. -/
theorem consumedLengthsAreNarrowedInvariant : Obligations.ConsumedLengthsAreNarrowedInvariant := by
  intro i s t hi hs hfits hread h
  rw [exec_completes hi hs hfits hread] at h
  obtain rfl := Host.Outcome.next.inj h
  obtain ⟨heth, hother, hmax, hpos⟩ := headerRule_len s.cfg.wire (protoOf i) (headerOf (protoOf i) s)
  rw [resultLenField_completeExtract _ _ _ _ hmax]
  have eq_of_proto {p : Proto} (hp : protoOf i = p) : i = extractorOf p := hp ▸ eq_extractorOf_of_isExtractor hi
  exact ⟨fun he => heth (he ▸ rfl), fun he => hother fun hp => he (eq_of_proto hp), hmax,
    fun h4 ht => hpos (fun hp => h4 (eq_of_proto hp)) fun hp => ht (eq_of_proto hp)⟩

/-! ### Dispatch with distinct constants -/

theorem wire_wf_iff {w : Wire} : w.wf = true ↔
    [w.etypeIpv4, w.etypeVlan, w.etypeIpv6].Nodup ∧ [w.protoTcp, w.protoUdp].Nodup ∧
      [w.nhHbh, w.nhTcp, w.nhUdp, w.nhRouting, w.nhFrag, w.nhNone, w.nhDstopt].Nodup := by
  simp only [Wire.wf, Bool.and_eq_true, decide_eq_true_eq, and_assoc]

/-- A dispatch table: the tag of the first row with the key, UNKNOWN where no row has it. -/
def firstRow {n : Nat} : List (BitVec n × Tag) → BitVec n → Tag
  | [], _ => .unknown
  | row :: rows, k => if k = row.1 then row.2 else firstRow rows k

section
variable {n : Nat} {rows : List (BitVec n × Tag)}

/-- Where the keys are distinct, every row is the first with its key. -/
theorem firstRow_of_mem (h : (rows.map Prod.fst).Nodup) : ∀ row ∈ rows, firstRow rows row.1 = row.2 := by
  induction rows with
  | nil => exact List.forall_mem_nil _
  | cons first rows ih =>
    obtain ⟨hfirst, hrows⟩ := List.nodup_cons.1 h
    refine List.forall_mem_cons.2 ⟨if_pos rfl, fun row hrow => ?_⟩
    have hother : row.1 ≠ first.1 := fun heq => hfirst (heq ▸ List.mem_map_of_mem hrow)
    rw [firstRow, if_neg hother, ih hrows row hrow]

theorem firstRow_of_not_mem {k : BitVec n} (h : k ∉ rows.map Prod.fst) : firstRow rows k = .unknown := by
  induction rows with
  | nil => rfl
  | cons first rows ih =>
    obtain ⟨hfirst, hrows⟩ := List.ne_and_not_mem_of_not_mem_cons h
    rw [firstRow, if_neg hfirst, ih hrows]

end

section
variable (w : Wire)

/-- The rows of 41_link_layer.md R101. -/
def ethRows : List (Half × Tag) := [(w.etypeIpv4, .ipv4), (w.etypeVlan, .vlan), (w.etypeIpv6, .ipv6)]

/-- The rows of 41_link_layer.md R103, without 802.1Q (R105). -/
def vlanRows : List (Half × Tag) := [(w.etypeIpv4, .ipv4), (w.etypeIpv6, .ipv6)]

/-- The rows of 42_ip.md R120. -/
def ip4Rows : List (Byte × Tag) := [(w.protoTcp, .tcp), (w.protoUdp, .udp)]

/-- The rows of 42_ip.md R124. -/
def nhRows : List (Byte × Tag) :=
  [(w.nhTcp, .tcp), (w.nhUdp, .udp), (w.nhHbh, .ip6Hbh), (w.nhRouting, .ip6Routing), (w.nhFrag, .ip6Frag),
    (w.nhNone, .none), (w.nhDstopt, .ip6Dstopt)]

theorem ethDispatch_eq_firstRow : ethDispatch w = firstRow (ethRows w) := rfl

theorem vlanDispatch_eq_firstRow : vlanDispatch w = firstRow (vlanRows w) := rfl

theorem ip4Dispatch_eq_firstRow : ip4Dispatch w = firstRow (ip4Rows w) := rfl

theorem nhDispatch_eq_firstRow : nhDispatch w = firstRow (nhRows w) := rfl

/-- The constants of `Wire.wf` are the keys of the next-header table, in another order. -/
theorem nhKeys_perm : [w.nhHbh, w.nhTcp, w.nhUdp, w.nhRouting, w.nhFrag, w.nhNone, w.nhDstopt].Perm
    ((nhRows w).map Prod.fst) := (List.perm_middle (l₁ := [w.nhTcp, w.nhUdp])).symm

theorem vlanKeys_sublist : ((vlanRows w).map Prod.fst).Sublist [w.etypeIpv4, w.etypeVlan, w.etypeIpv6] :=
  (List.sublist_cons_self w.etypeVlan _).cons_cons w.etypeIpv4

end

/-- Settles O27: each table gives its first row with the key, and with distinct constants that is the constant's own. -/
theorem distinctWireConstantsSelectTheirRows : Obligations.DistinctWireConstantsSelectTheirRows := by
  intro w hw
  obtain ⟨hetype, hproto, hnh⟩ := wire_wf_iff.1 hw
  rw [ethDispatch_eq_firstRow, vlanDispatch_eq_firstRow, ip4Dispatch_eq_firstRow, nhDispatch_eq_firstRow]
  have heth : ∀ row ∈ ethRows w, _ := firstRow_of_mem hetype
  have hvlan : ∀ row ∈ vlanRows w, _ := firstRow_of_mem (hetype.sublist (vlanKeys_sublist w))
  have hip4 : ∀ row ∈ ip4Rows w, _ := firstRow_of_mem hproto
  have hnext : ∀ row ∈ nhRows w, _ := firstRow_of_mem ((nhKeys_perm w).nodup_iff.1 hnh)
  have hsecondTag : w.etypeVlan ∉ (vlanRows w).map Prod.fst :=
    (List.nodup_cons.1 ((List.perm_middle (l₁ := [w.etypeIpv4])).nodup_iff.1 hetype)).1
  refine ⟨heth (_, .ipv4) ?_, heth (_, .vlan) ?_, heth (_, .ipv6) ?_, hvlan (_, .ipv4) ?_, hvlan (_, .ipv6) ?_,
    firstRow_of_not_mem hsecondTag, hip4 (_, .tcp) ?_, hip4 (_, .udp) ?_, hnext (_, .tcp) ?_, hnext (_, .udp) ?_,
    hnext (_, .ip6Hbh) ?_, hnext (_, .ip6Routing) ?_, hnext (_, .ip6Frag) ?_, hnext (_, .none) ?_,
    hnext (_, .ip6Dstopt) ?_, fun e he => ⟨firstRow_of_not_mem he, ?vlanOther⟩, fun b hb => firstRow_of_not_mem hb,
    fun b hb => ?nhOther⟩
  case vlanOther => exact firstRow_of_not_mem fun hmem => he ((vlanKeys_sublist w).subset hmem)
  case nhOther => exact firstRow_of_not_mem fun hmem => hb ((nhKeys_perm w).mem_iff.2 hmem)
  all_goals simp [ethRows, vlanRows, ip4Rows, nhRows]

end Sys2Proof.Machine
end

section
/-! The host port: the step as the next action, the registers as the host reads and writes them, where the platform places
them, and what the platform writes to packet memory (10_state.md R21 to R37, 70_reset_and_hazards.md R230 to R233). -/

namespace Sys2Proof.Machine

/-! ### A step as its next action -/

theorem step_wr_cmd {s : State} {w : Word} {rest : List HostAction} (hr : s.resetLine = false)
    (hinbox : s.inbox = wr .cmd w :: rest) : step s = writeCmd w { s with inbox := rest } := by
  rw [step_cons hinbox]
  exact perform_wr .cmd w hr

/-- Settles O5: `withFetchWord` puts the CMD write of the word in front and releases the reset input. -/
theorem stepRunsTheDecodedCommand : Obligations.StepRunsTheDecodedCommand := by
  refine ⟨fun s w i rest hr hinbox hdec => (step_wr_cmd hr hinbox).trans (writeCmd_of_decode _ hdec),
    fun s n i hn hdec => ?_⟩
  rw [State.withFetchWord, Nat.mod_eq_of_lt hn]
  exact (step_wr_cmd (withCommandNext_resetLine s _) (withCommandNext_inbox s _)).trans (writeCmd_of_decode _ hdec)

/-- Settles O6: the idle case of `takeAction`. -/
theorem idleStepChangesNothing : Obligations.IdleStepChangesNothing := by
  intro s hinbox
  rw [step, takeAction, hinbox]

/-- Settles O39: the two branches of the range check. -/
theorem packetWriteOutsideMemoryStops : Obligations.PacketWriteOutsideMemoryStops :=
  fun _ _ _ => ⟨fun hin => if_pos hin, fun hout => if_neg (Nat.not_lt.2 hout)⟩

/-! ### Reading registers -/

theorem writeOffset_registerOffset (s : State) (r : Register) (v : Word) :
    writeOffset (registerOffset r) v s = writeRegister r v s := by
  rw [writeOffset, registerAt_registerOffset]

theorem readOffset_registerOffset (s : State) (r : Register) : readOffset s (registerOffset r) = readRegister s r := by
  rw [readOffset, registerAt_registerOffset]

/-- The map of 10_state.md R21 ends at 0x64 and has a hole from 0x24 to 0x3C. -/
theorem registerOffset_range (r : Register) :
    registerOffset r ≤ 0x20 ∨ 0x40 ≤ registerOffset r ∧ registerOffset r ≤ 0x64 := by
  cases r with
  | hdr k => simp only [registerOffset]; omega
  | _ => exact .inl (by decide)

/-- Settles O40: each named offset is a register's, and the others are none. -/
theorem registerMapReads : Obligations.RegisterMapReads := by
  intro s
  refine ⟨readOffset_registerOffset s .cmd, readOffset_registerOffset s .status, readOffset_registerOffset s .ctrl,
    readOffset_registerOffset s .bufBase, readOffset_registerOffset s .bufLen, readOffset_registerOffset s .offset,
    readOffset_registerOffset s .result, readOffset_registerOffset s .fit, readOffset_registerOffset s .faultCmd,
    fun off hoff => readOffset_unmapped s fun r hr => ?unmapped, fun off hoff hr => ?read⟩
  case unmapped =>
    have hrange := registerOffset_range r
    omega
  case read => simp [perform_read_aligned s hoff, hr]

/-- Byte `j` from the top of four packed bytes (10_state.md R31). -/
theorem extract_byte_of_append (b : Fin 4 → Byte) (j : Fin 4) :
    (b 0 ++ b 1 ++ b 2 ++ b 3).extractLsb' (24 - 8 * j.val) 8 = b j := by
  match j with
  | 0 => rw [BitVec.extractLsb'_append_eq_of_le (by decide), BitVec.extractLsb'_append_eq_of_le (by decide)]
         exact BitVec.extractLsb'_append_eq_left
  | 1 => rw [BitVec.extractLsb'_append_eq_of_le (by decide), BitVec.extractLsb'_append_eq_of_le (by decide)]
         exact BitVec.extractLsb'_append_eq_right
  | 2 => rw [BitVec.extractLsb'_append_eq_of_le (by decide)]
         exact BitVec.extractLsb'_append_eq_right
  | 3 => exact BitVec.extractLsb'_append_eq_right

/-- Settles O41: the offset is HDRk's, which is read only. -/
theorem hdrReadsPackBigEndian : Obligations.HdrReadsPackBigEndian := by
  intro s k j
  rw [show 0x40 + 4 * k.val = registerOffset (.hdr k) from rfl]
  refine ⟨?_, fun v => ?_⟩
  · rw [readOffset_registerOffset]
    exact extract_byte_of_append (fun j => s.hdr[4 * k.val + j.val]) j
  · rw [perform_write_aligned v s (registerOffset_aligned (.hdr k)), writeOffset_registerOffset, writeRegister, ite_self]

/-! ### Writing registers -/

/-- Settles O42: `lowBits` keeps the value modulo the width. -/
theorem bufferRegisterWritesKeepTheirFields : Obligations.BufferRegisterWritesKeepTheirFields :=
  fun _ v hr => ⟨⟨_, lowBits_toNat _ v, perform_wr .bufBase v hr⟩, ⟨_, lowBits_toNat _ v, perform_wr .bufLen v hr⟩,
    ⟨_, lowBits_toNat _ v, perform_wr .offset v hr⟩⟩

/-! ### The reset input and the reset values -/

/-- Settles O46: an aligned access gets past the check of the interface, and is then dropped. -/
theorem assertedResetAcceptsNoAccess : Obligations.AssertedResetAcceptsNoAccess := by
  intro s
  refine ⟨fun off v hr hoff => ?_, fun off hr hoff => ?_, rfl⟩
  · rw [perform_write_aligned v s hoff, if_pos hr]
  · rw [perform_read_aligned s hoff, if_pos hr]

theorem fixedSize_pos (p : Proto) : 0 < fixedSize p := by cases p <;> decide

/-- No header fits in a buffer of length 0 (70_reset_and_hazards.md R233). -/
theorem BlockAtReset.not_headerFits {s : State} (h : BlockAtReset s) (p : Proto) : ¬HeaderFits p s := by
  have hpos := fixedSize_pos p
  simp only [HeaderFits, h.offset, h.bufLen]
  omega

/-- Settles O47: at the reset values no header fits, which is all that a fit check and the first test of `Fetch` ask. -/
theorem everyFitFailsAndEveryExtractFaultsAfterReset : Obligations.EveryFitFailsAndEveryExtractFaultsAfterReset := by
  intro s i h
  obtain ⟨hextract, hfit⟩ := oobFaultsBeforeReading i s h.irq (h.not_headerFits (protoOf i))
  cases hi : isExtractor i with
  | false => exact ⟨_, hfit hi, fun _ => ⟨by simp [fitsField], h.irq⟩, fun hx => absurd hx (by decide)⟩
  | true =>
    refine ⟨_, hextract hi, fun hx => absurd hx (by decide), fun _ => ?_⟩
    simp only [faulted, causeField, faultEntered_status]
    decide

/-! ### Where the platform places the registers -/

/-- Settles O55: the address decode is the subtraction of the base. -/
theorem registersStandAtTheRegisterBase : Obligations.RegistersStandAtTheRegisterBase := by
  intro c
  refine ⟨fun r v => ⟨writeAt_registerAddress c r v, readAt_registerAddress c r⟩,
    fun r r' h => registerOffset_inj (Nat.add_left_cancel h), fun bits off v => ?above, fun bits addr v hbelow => ?below⟩
  case above =>
    have hoff : offsetOfAddress c (c.regBase + off) = some off := offsetOfAddress_eq_some.2 rfl
    simp [writeAt, readAt, hoff]
  case below =>
    have hnone : offsetOfAddress c addr = none := if_neg (Nat.not_le.2 hbelow)
    simp [writeAt, readAt, hnone]

/-- The outcome of the same machine with its registers placed at `base`. -/
def placedOutcome (base : Nat) :
    Host.Outcome State Fault Refusal → Host.Outcome State Fault Refusal
  | .next t => .next (placedAt base t)
  | .fault r => .fault r
  | .refused r => .refused r

section
variable (base : Nat) (s : State)

@[simp] theorem faulted_placedAt : faulted (placedAt base s) = faulted s := rfl

theorem fetch_placedAt (n : Nat) : fetch n (placedAt base s) = fetch n s := rfl

theorem issue_placedAt (t : State) : issue (placedAt base s) (placedAt base t) = placedOutcome base (issue s t) := by
  cases hs : faulted s with
  | true => rw [issue_faulted hs, issue_faulted (by simpa using hs)]; rfl
  | false => rw [issue_running hs, issue_running (by simpa using hs)]; rfl

theorem fitCheck_placedAt (w : Word) (n : Nat) :
    fitCheck w n (placedAt base s) = placedOutcome base (fitCheck w n s) :=
  issue_placedAt base s (completeFit w (fits (offsetOperand s) n (bufLenOperand s)) s)

theorem extract_placedAt (w : Word) (n : Nat) (rule : List Byte → Tag × Nat) :
    extract w n rule (placedAt base s) = placedOutcome base (extract w n rule s) := by
  rw [extract, fetch_placedAt, extract, ← issue_placedAt]
  cases fetch n s <;> rfl

theorem exec_placedAt (i : Instr) : exec i (placedAt base s) = placedOutcome base (exec i s) := by
  cases i with
  | fitEth | fitVlan | fitIp4 | fitIp6 | fitIp6ext | fitTcp | fitUdp => exact fitCheck_placedAt base s _ _
  | extEth | extVlan | extIp4 | extIp6 | extIp6ext | extTcp | extUdp => exact extract_placedAt base s _ _ _

theorem writeCmd_placedAt (w : Word) : writeCmd w (placedAt base s) = placedOutcome base (writeCmd w s) := by
  unfold writeCmd
  cases decode w with
  | ok i => exact exec_placedAt base s i
  | error e => exact issue_placedAt base s (raiseFault .illegalCmd w s)

theorem writeRegister_placedAt (r : Register) (v : Word) :
    writeRegister r v (placedAt base s) = placedOutcome base (writeRegister r v s) := by
  cases r with
  | cmd => exact writeCmd_placedAt base s v
  | ctrl =>
    simp only [writeRegister, writeCtrl]
    split <;> rfl
  | _ => rfl

theorem writeOffset_placedAt (off : Nat) (v : Word) :
    writeOffset off v (placedAt base s) = placedOutcome base (writeOffset off v s) := by
  unfold writeOffset
  cases registerAt off with
  | none => rfl
  | some r => exact writeRegister_placedAt base s r v

theorem checkAccess_placed (bits off : Nat) (o : Host.Outcome State Fault Refusal) :
    checkAccess bits off (placedOutcome base o) = placedOutcome base (checkAccess bits off o) := by
  unfold checkAccess
  split_ifs <;> rfl

theorem perform_placedAt (a : HostAction) : perform a (placedAt base s) = placedOutcome base (perform a s) := by
  cases a with
  | write bits off v =>
    refine Eq.trans (congrArg (checkAccess bits off) ?_) (checkAccess_placed base bits off _)
    rw [placedAt_resetLine, writeOffset_placedAt]
    cases s.resetLine <;> rfl
  | read bits off =>
    exact checkAccess_placed base bits off
      (.next { s with readData := if s.resetLine then none else some (readOffset s off) })
  | packetWriteStart addr b =>
    unfold perform startPacketWrite
    rw [apply_ite (placedOutcome base)]
    rfl
  | packetWriteDone k =>
    simp only [perform, finishPacketWrite, placedAt_inFlight]
    cases s.inFlight[k]? <;> rfl
  | resetAssert | resetRelease => rfl

theorem step_placedAt : step (placedAt base s) = placedOutcome base (step s) := by
  unfold step takeAction
  rw [placedAt_inbox]
  cases s.inbox with
  | nil => rfl
  | cons a rest => exact perform_placedAt base { s with inbox := rest } a

end

/-- Settles O56: no operation looks at the register base, so each commutes with moving it. -/
theorem registerBaseNeverMattersToTheBlock : Obligations.RegisterBaseNeverMattersToTheBlock := by
  intro s base
  rw [step_placedAt]
  cases step s <;> rfl

end Sys2Proof.Machine
end

section
/-! The caller's parse: one transition as a fit check and an extraction, and the bound on the number of transitions
(44_parser_fsm.md R174, R175, R177). -/

namespace Sys2Proof.Machine

/-! ### The actions of a transition -/

/-- `cmd M` where the block accepts it (30_encoding.md R85). -/
theorem perform_cmd {s : State} (i : Instr) (hr : s.resetLine = false) : perform (cmd i) s = exec i s := by
  rw [cmd, perform_wr .cmd _ hr]
  exact writeCmd_of_decode s (decode_encode i)

section
variable {bits off : Nat} (h : off < 2 ^ bits) (hbits : bits ≤ 32)
include h hbits

theorem toNat_ofNat_cursor : (BitVec.ofNat 32 off).toNat = off := by
  rw [BitVec.toNat_ofNat]
  exact Nat.mod_eq_of_lt (Nat.lt_of_lt_of_le h (Nat.pow_le_pow_right (by decide) hbits))

/-- A cursor that OFFSET can hold is stored whole (10_state.md R27). -/
theorem lowBits_ofNat_cursor : lowBits bits (BitVec.ofNat 32 off) = BitVec.ofNat 32 off := by
  rw [lowBits, toNat_ofNat_cursor h hbits, Nat.mod_eq_of_lt h]

end

/-- `s` after the first two actions of a transition: the cursor in OFFSET and the answer of the fit check in FIT. -/
def fitChecked (p : Proto) (off : Nat) (answer : Word) (s : State) : State :=
  { s with offset := BitVec.ofNat 32 off, cmd := encode (fitCheckOf p), fit := answer }

theorem fitsField_fitChecked_one (p : Proto) (off : Nat) (s : State) : fitsField (fitChecked p off 1 s) = true := by
  show (1 : Word).getLsbD 0 = true
  decide

theorem fitsField_fitChecked_zero (p : Proto) (off : Nat) (s : State) : fitsField (fitChecked p off 0 s) = false := by
  show (0 : Word).getLsbD 0 = false
  decide

/-- `u` after the extractor of protocol `p` has completed by the rule of its protocol. -/
def extraction (p : Proto) (u : State) : State :=
  completeExtract (encode (extractorOf p)) (headerRule u.cfg.wire p (headerOf p u)).1
    (headerRule u.cfg.wire p (headerOf p u)).2 (headerOf p u) u

theorem headerRule_len_le (w : Wire) (p : Proto) (h : List Byte) : (headerRule w p h).2 ≤ 2048 := by
  obtain ⟨_, _, hmax, _⟩ := headerRule_len w p h
  exact hmax

theorem extraction_extracted (p : Proto) (u : State) : Extracted (extractorOf p)
    (headerRule u.cfg.wire p (headerOf p u)).1 (headerRule u.cfg.wire p (headerOf p u)).2 u (extraction p u) := by
  have h := completeExtract_extracted (i := extractorOf p) (tag := (headerRule u.cfg.wire p (headerOf p u)).1) u
    (headerRule_len_le u.cfg.wire p (headerOf p u))
  rwa [protoOf_extractorOf] at h

/-- The caller reads back the tag and the length that the extractor wrote. -/
theorem readMove_extraction (p : Proto) (off : Nat) (u : State) :
    readMove off (extraction p u) = .next (.moved (nextState (headerRule u.cfg.wire p (headerOf p u)).1)
      (off + (headerRule u.cfg.wire p (headerOf p u)).2), extraction p u) := by
  have htag : tagOfCode (resultTagField (extraction p u)) = some (headerRule u.cfg.wire p (headerOf p u)).1 := by
    rw [resultTagField, extraction, completeExtract_result, resultWord_tag, tagOfCode_tagCode]
  have hlen : resultLenField (extraction p u) = (headerRule u.cfg.wire p (headerOf p u)).2 :=
    resultLenField_completeExtract _ _ _ _ (headerRule_len_le _ _ _)
  rw [readMove, htag, hlen]

section
variable {p : Proto} {off : Nat} {s : State} (hs : faulted s = false) (hr : s.resetLine = false)
  (hbits : s.cfg.offsetBits ≤ 32) (hoff : off < 2 ^ s.cfg.offsetBits)
include hs hr hbits hoff

/-- A transition with a cursor that OFFSET can hold is decided by its fit check. -/
theorem transition_eq : transition p off s =
    if off + fixedSize p ≤ s.bufLen.toNat then
      andThen (exec (extractorOf p) (fitChecked p off 1 s)) (readMove off)
    else .next (.truncated, fitChecked p off 0 s) := by
  have hwrite : perform (wr .offset (BitVec.ofNat 32 off)) s = .next { s with offset := BitVec.ofNat 32 off } := by
    rw [perform_wr .offset _ hr, writeRegister, lowBits_ofNat_cursor hoff hbits]
  have hcheck : perform (cmd (fitCheckOf p)) { s with offset := BitVec.ofNat 32 off } =
      .next (fitChecked p off (if off + fixedSize p ≤ s.bufLen.toNat then 1 else 0) s) := by
    rw [perform_cmd (s := { s with offset := BitVec.ofNat 32 off }) _ hr,
      exec_fitCheck_running (s := { s with offset := BitVec.ofNat 32 off }) (isExtractor_fitCheckOf p) hs,
      completeFit_fits, protoOf_fitCheckOf, toNat_ofNat_cursor hoff hbits]
    rfl
  rw [transition, if_pos hoff, hwrite, andThen, hcheck, andThen]
  by_cases hfits : off + fixedSize p ≤ s.bufLen.toNat
  · rw [if_pos hfits, if_pos hfits, if_pos (fitsField_fitChecked_one p off s),
      perform_cmd (s := fitChecked p off 1 s) _ hr]
  · rw [if_neg hfits, if_neg hfits, fitsField_fitChecked_zero]
    rfl

/-- A header that fits and is readable moves the caller on (44_parser_fsm.md R174). -/
theorem transition_moves (hfits : off + fixedSize p ≤ s.bufLen.toNat)
    (hread : s.bufBase.toNat + off + fixedSize p ≤ s.cfg.pktMemBytes) :
    exec (extractorOf p) (fitChecked p off 1 s) = .next (extraction p (fitChecked p off 1 s)) ∧
      transition p off s = readMove off (extraction p (fitChecked p off 1 s)) := by
  have hcursor : (fitChecked p off 1 s).offset.toNat = off := toNat_ofNat_cursor hoff hbits
  have hexec : exec (extractorOf p) (fitChecked p off 1 s) = .next (extraction p (fitChecked p off 1 s)) := by
    refine exec_extractorOf_completes hs ?_ ?_
    · rw [HeaderFits, hcursor]
      exact hfits
    · rw [HeaderReadable, hcursor]
      exact hread
  refine ⟨hexec, ?_⟩
  rw [transition_eq hs hr hbits hoff, if_pos hfits, hexec]
  rfl

end

theorem transition_cursor_too_long {p : Proto} {off : Nat} {s : State} (h : 2 ^ s.cfg.offsetBits ≤ off) :
    transition p off s = .next (.truncated, s) := if_neg (Nat.not_lt.2 h)

/-- Settles O53: with a cursor that OFFSET can hold, the fit check decides between the extractor and TRUNCATED. -/
theorem transitionFollowsTheExtractor : Obligations.TransitionFollowsTheExtractor := by
  intro p off s hs hr hbits
  refine ⟨fun hoff hfits hread => ?moves, fun hoff hunfit => ?truncated, transition_cursor_too_long⟩
  case moves =>
    obtain ⟨hexec, htransition⟩ := transition_moves hs hr hbits hoff hfits hread
    exact ⟨_, _, _, hexec, extraction_extracted p _, htransition.trans (readMove_extraction p off _)⟩
  case truncated => rw [transition_eq hs hr hbits hoff, if_neg hunfit]; rfl

/-! ### How many transitions are left -/

/-- The bound on the transitions from an extension header at the cursor: each that succeeds has a probe of 4 bytes inside
the buffer and consumes at least 8, and one more is truncated or leaves the chain. -/
def extensionsLeft (len off : Nat) : Nat := (len + 4 - off) / 8 + 1

/-- The bound of 44_parser_fsm.md R177 from each parse position, BUF_LEN being `len`. -/
def transitionsLeft (len : Nat) : ParseState → Nat → Nat
  | .eth, off => 3 + extensionsLeft len off
  | .vlan, off => 2 + extensionsLeft len off
  | .ipv6, off => 1 + extensionsLeft len off
  | .ipv6Ext, off => extensionsLeft len off
  | .ipv4, _ => 2
  | .tcp, _ => 1
  | .udp, _ => 1
  | .endNone, _ => 0
  | .endUnknown, _ => 0

theorem transitionsLeft_le (len : Nat) (S : ParseState) (off : Nat) : transitionsLeft len S off ≤ len / 8 + 5 := by
  cases S <;> simp only [transitionsLeft, extensionsLeft] <;> omega

theorem transitionsLeft_pos {len off : Nat} {S : ParseState} {p : Proto} (hp : parseProto S = some p) :
    0 < transitionsLeft len S off := by
  cases S <;> cases hp <;> simp only [transitionsLeft, extensionsLeft] <;> omega

theorem extensionsLeft_pos (len off : Nat) : 0 < extensionsLeft len off := Nat.succ_pos _

theorem extensionsLeft_le (len off n : Nat) : extensionsLeft len (off + n) ≤ extensionsLeft len off := by
  unfold extensionsLeft
  omega

theorem extensionsLeft_lt {len off n : Nat} (hfits : off + 4 ≤ len) (hn : 8 ≤ n) :
    extensionsLeft len (off + n) < extensionsLeft len off := by
  unfold extensionsLeft
  omega

/-- Along an edge of the machine the bound falls: from an extension header by the bytes consumed, from any other by the
order of the layers (44_parser_fsm.md R176, R177). -/
theorem transitionsLeft_lt_of_edge {len off n : Nat} {S S' : ParseState} (hedge : (S, S') ∈ parseEdges)
    (hchain : S = .ipv6Ext → extensionsLeft len (off + n) < extensionsLeft len off) :
    transitionsLeft len S' (off + n) < transitionsLeft len S off := by
  have hpos := extensionsLeft_pos len off
  have hpos' := extensionsLeft_pos len (off + n)
  have hle := extensionsLeft_le len off n
  have rows : ∀ e ∈ parseEdges, (e.1 = .ipv6Ext → extensionsLeft len (off + n) < extensionsLeft len off) →
      transitionsLeft len e.2 (off + n) < transitionsLeft len e.1 off := by
    simp only [parseEdges, transitionsLeft, List.mem_cons, List.not_mem_nil, or_false, forall_eq_or_imp, forall_eq,
      reduceCtorEq, false_implies, true_implies]
    omega
  exact rows _ hedge hchain

theorem transitionsLeft_lt {len off n : Nat} {S : ParseState} {p : Proto} {tag : Tag} (hp : parseProto S = some p)
    (htag : tag ∈ tagRange p) (hfits : off + fixedSize p ≤ len) (hn : p = .ip6ext → 8 ≤ n) :
    transitionsLeft len (nextState tag) (off + n) < transitionsLeft len S off := by
  refine transitionsLeft_lt_of_edge (nextState_mem_parseEdges hp htag) ?_
  rintro rfl
  cases hp
  exact extensionsLeft_lt hfits (hn rfl)

/-! ### The loop -/

/-- What the caller's loop needs of the block before each transition. -/
structure ReadyToParse (s : State) : Prop where
  offsetBits : s.cfg.offsetBits ≤ 32
  running : faulted s = false
  released : s.resetLine = false
  inside : BufferInside s

/-- A transition leaves the buffer, and what else the loop needs, as it was. -/
structure KeepsBuffer (s t : State) : Prop where
  cfg : t.cfg = s.cfg
  status : t.status = s.status
  resetLine : t.resetLine = s.resetLine
  bufBase : t.bufBase = s.bufBase
  bufLen : t.bufLen = s.bufLen

theorem KeepsBuffer.refl (s : State) : KeepsBuffer s s := ⟨rfl, rfl, rfl, rfl, rfl⟩

theorem fitChecked_keepsBuffer (p : Proto) (off : Nat) (answer : Word) (s : State) :
    KeepsBuffer s (fitChecked p off answer s) := ⟨rfl, rfl, rfl, rfl, rfl⟩

theorem extraction_keepsBuffer (p : Proto) (u : State) : KeepsBuffer u (extraction p u) := ⟨rfl, rfl, rfl, rfl, rfl⟩

theorem KeepsBuffer.trans {s t u : State} (h : KeepsBuffer s t) (h' : KeepsBuffer t u) : KeepsBuffer s u :=
  ⟨h'.cfg.trans h.cfg, h'.status.trans h.status, h'.resetLine.trans h.resetLine, h'.bufBase.trans h.bufBase,
    h'.bufLen.trans h.bufLen⟩

theorem ReadyToParse.kept {s t : State} (h : ReadyToParse s) (hk : KeepsBuffer s t) : ReadyToParse t where
  offsetBits := hk.cfg ▸ h.offsetBits
  running := (faulted_of_status_eq hk.status).trans h.running
  released := hk.resetLine.trans h.released
  inside := by
    rw [BufferInside, hk.bufBase, hk.bufLen, hk.cfg]
    exact h.inside

/-- What a transition of the loop can do: end TRUNCATED, or move along an edge of the machine. In a buffer inside packet
memory a header that fits is readable, so the extractor does not fault. -/
theorem transition_cases (p : Proto) (off : Nat) {s : State} (h : ReadyToParse s) :
    (∃ t, transition p off s = .next (.truncated, t) ∧ KeepsBuffer s t) ∨
      ∃ tag n t, off + fixedSize p ≤ s.bufLen.toNat ∧ tag ∈ tagRange p ∧ (p = .ip6ext → 8 ≤ n) ∧
        transition p off s = .next (.moved (nextState tag) (off + n), t) ∧ KeepsBuffer s t := by
  by_cases hoff : off < 2 ^ s.cfg.offsetBits
  · by_cases hfits : off + fixedSize p ≤ s.bufLen.toNat
    · have hread : s.bufBase.toNat + off + fixedSize p ≤ s.cfg.pktMemBytes := by
        have hinside := h.inside
        omega
      obtain ⟨_, htransition⟩ := transition_moves h.running h.released h.offsetBits hoff hfits hread
      refine .inr ⟨_, _, _, hfits, headerRule_tag_mem _ p _, ?_, htransition.trans (readMove_extraction p off _),
        (fitChecked_keepsBuffer p off 1 s).trans (extraction_keepsBuffer p _)⟩
      rintro rfl
      obtain ⟨hmin, _⟩ := extLength_bounds _ _
      exact hmin
    · refine .inl ⟨fitChecked p off 0 s, ?_, fitChecked_keepsBuffer p off 0 s⟩
      rw [transition_eq h.running h.released h.offsetBits hoff, if_neg hfits]
  · exact .inl ⟨s, transition_cursor_too_long (Nat.not_lt.1 hoff), KeepsBuffer.refl s⟩

/-- The loop ends for one of the spec's three reasons, with the cursor not moved back and the buffer as it was. -/
def ParseEnds (k : Nat) (S : ParseState) (off : Nat) (s : State) : Prop :=
  ∃ e off' t, parse k S off s = .next (e, off', t) ∧ (e = .endNone ∨ e = .endUnknown ∨ e = .truncated) ∧
    off ≤ off' ∧ KeepsBuffer s t

/-- A parse in a terminal state is over, whatever its bound (44_parser_fsm.md R175). -/
theorem parseEnds_terminal (k : Nat) {S : ParseState} (off : Nat) (s : State) (hp : parseProto S = none) :
    ParseEnds k S off s := by
  cases S with
  | endNone => cases k <;> exact ⟨.endNone, off, s, rfl, .inl rfl, Nat.le_refl off, KeepsBuffer.refl s⟩
  | endUnknown => cases k <;> exact ⟨.endUnknown, off, s, rfl, .inr (.inl rfl), Nat.le_refl off, KeepsBuffer.refl s⟩
  | _ => cases hp

theorem parse_truncated {k : Nat} {S : ParseState} {p : Proto} {off : Nat} {s t : State} (hp : parseProto S = some p)
    (h : transition p off s = .next (.truncated, t)) : parse (k + 1) S off s = .next (.truncated, off, t) := by
  simp only [parse, hp, h]

theorem parse_moved {k : Nat} {S S' : ParseState} {p : Proto} {off off' : Nat} {s t : State}
    (hp : parseProto S = some p) (h : transition p off s = .next (.moved S' off', t)) :
    parse (k + 1) S off s = parse k S' off' t := by
  simp only [parse, hp, h]

/-- A bound that is not below what is left is never reached. -/
theorem parseEnds_of_transitionsLeft_le {k : Nat} {S : ParseState} {off : Nat} {s : State} (h : ReadyToParse s)
    (hk : transitionsLeft s.bufLen.toNat S off ≤ k) : ParseEnds k S off s := by
  induction k generalizing S off s with
  | zero =>
    cases hp : parseProto S with
    | none => exact parseEnds_terminal 0 off s hp
    | some p => exact absurd (Nat.lt_of_lt_of_le (transitionsLeft_pos hp) hk) (Nat.lt_irrefl 0)
  | succ k ih =>
    cases hp : parseProto S with
    | none => exact parseEnds_terminal (k + 1) off s hp
    | some p =>
      rcases transition_cases p off h with ⟨t, ht, hkept⟩ | ⟨tag, n, t, hfits, htag, hn, ht, hkept⟩
      · exact ⟨.truncated, off, t, parse_truncated hp ht, .inr (.inr rfl), Nat.le_refl off, hkept⟩
      · have hless : transitionsLeft t.bufLen.toNat (nextState tag) (off + n) ≤ k := by
          rw [hkept.bufLen]
          exact Nat.le_of_lt_succ (Nat.lt_of_lt_of_le (transitionsLeft_lt hp htag hfits hn) hk)
        obtain ⟨e, off', u, hparse, he, hle, hkept'⟩ := ih (h.kept hkept) hless
        exact ⟨e, off', u, (parse_moved hp ht).trans hparse, he, Nat.le_trans (Nat.le_add_right off n) hle,
          hkept.trans hkept'⟩

theorem Inv.offsetBits_le {s : State} (h : Inv s) : s.cfg.offsetBits ≤ 32 := by
  have hcfg := h.cfg
  simp only [Config.wf, Bool.and_eq_true, decide_eq_true_eq] at hcfg
  omega

/-- Settles O54: the bound of the statement is not below what is left from any parse position. -/
theorem everyParseEndsWithinItsBound : Obligations.EveryParseEndsWithinItsBound := by
  intro s S off hinv hs hr hinside
  obtain ⟨e, off', t, hparse, he, hle, hkept⟩ :=
    parseEnds_of_transitionsLeft_le ⟨hinv.offsetBits_le, hs, hr, hinside⟩ (transitionsLeft_le s.bufLen.toNat S off)
  exact ⟨e, off', t, hparse, he, hle, (faulted_of_status_eq hkept.status).trans hs, hkept.bufBase, hkept.bufLen⟩

end Sys2Proof.Machine
end
